-- ==== Sys2Proof/Word.lean ====
section
/-! DEFINITION. Word types of the AM2302 single-wire protocol decoder (spec/00_scope.md R13, R14): bit 0 is the
least significant bit of every value, and arithmetic is unsigned modulo the width unless a rule says otherwise. -/

namespace Sys2Proof

/-- A register word of the host window (20_memory.md R65: every access moves one whole 32-bit word). -/
abbrev Word := BitVec 32

/-- The word index `reg_addr_i` (10_state.md R36). -/
abbrev WordIdx := BitVec 3

/-- The host transaction word `TW[35:0]` (30_encoding.md R80). -/
abbrev TxWord := BitVec 36

/-- The 41 decoded bits of one transaction (10_state.md R25). -/
abbrev Frame := BitVec 41

/-- A 16-bit field: raw or reconstructed humidity or temperature (10_state.md R27, R29). -/
abbrev Half := BitVec 16

/-- An 8-bit field: a checksum or one wire byte (10_state.md R29, 20_memory.md R64). -/
abbrev Byte := BitVec 8

end Sys2Proof
end

