-- ==== Sys2Proof/Config.lean ====
section
/-! DEFINITION. What an instance of the decoder fixes and what its environment decides: the elaboration-time
parameters (00_scope.md R10), the constants (R11), the input record of one step (R7, 10_state.md R36) and the free
values of the model. -/

namespace Sys2Proof

/-- The seven elaboration-time parameters of 00_scope.md R10, counted in steps. -/
structure Params where
  /-- `P_IDLE_CEIL`: most polls IDLE_WAIT makes. -/
  idleCeil : Nat
  /-- `P_START_HOLD`: steps the line is driven low in START_PULSE. -/
  startHold : Nat
  /-- `P_ACK_LOW_CEIL`: most polls ACK_LOW_WAIT makes. -/
  ackLowCeil : Nat
  /-- `P_ACK_HIGH_CEIL`: most polls ACK_HIGH_WAIT makes. -/
  ackHighCeil : Nat
  /-- `P_SYNC_CEIL`: most polls BIT_SYNC_WAIT makes. -/
  syncCeil : Nat
  /-- `P_DATA_CEIL`: most polls BIT_HIGH_WAIT makes. -/
  dataCeil : Nat
  /-- `P_BIT_THRESHOLD`: largest sample that decodes to 0; 0 is legal. -/
  bitThreshold : Nat
  deriving DecidableEq, Repr, Inhabited

/-- The inputs sampled in one step (10_state.md R36), a free draw of the environment (00_scope.md R7). -/
structure Inputs where
  /-- `rst_i`: synchronous reset, active high. -/
  rst : Bool
  /-- `reg_we_i`: host write strobe. -/
  regWe : Bool
  /-- `reg_addr_i`: word index of the register accessed. -/
  regAddr : WordIdx
  /-- `reg_wdata_i`: host write data. -/
  regWdata : Word
  /-- `line_i`: level of the sensor line, true for high (00_scope.md R17). -/
  line : Bool
  /-- `now_ms_i`: the platform's millisecond clock. -/
  nowMs : Word
  deriving DecidableEq, Repr, Inhabited

namespace Config

/-- `N_SLOTS`, bit slots per transaction (00_scope.md R11). -/
def nSlots : Nat := 41

/-- `MIN_INTERVAL_MS`, the rate limit (00_scope.md R11). -/
def minIntervalMs : Nat := 2000

/-- `MS_W`, width of `now_ms_i` and `last_ms` (00_scope.md R11); `Word` has this width. -/
def msW : Nat := 32

/-- How far `P_IDLE_CEIL` of this instance stands above 1. OPEN (00_scope.md R10, D10); log 2. -/
opaque idleCeilAbove1 : Nat
/-- How far `P_START_HOLD` of this instance stands above 1. OPEN (00_scope.md R10, D10); log 2. -/
opaque startHoldAbove1 : Nat
/-- How far `P_ACK_LOW_CEIL` of this instance stands above 1. OPEN (00_scope.md R10, D10); log 2. -/
opaque ackLowCeilAbove1 : Nat
/-- How far `P_ACK_HIGH_CEIL` of this instance stands above 1. OPEN (00_scope.md R10, D10); log 2. -/
opaque ackHighCeilAbove1 : Nat
/-- How far `P_SYNC_CEIL` of this instance stands above 1. OPEN (00_scope.md R10, D10); log 2. -/
opaque syncCeilAbove1 : Nat
/-- How far `P_DATA_CEIL` of this instance stands above 1. OPEN (00_scope.md R10, D10); log 2. -/
opaque dataCeilAbove1 : Nat
/-- `P_BIT_THRESHOLD` of this instance. OPEN (00_scope.md R10, D10); log 2. -/
opaque bitThreshold : Nat

/-- The parameter record of the instance that `State.reset` describes: any legal record, unknown (log 2). -/
def params : Params where
  idleCeil := idleCeilAbove1 + 1
  startHold := startHoldAbove1 + 1
  ackLowCeil := ackLowCeilAbove1 + 1
  ackHighCeil := ackHighCeilAbove1 + 1
  syncCeil := syncCeilAbove1 + 1
  dataCeil := dataCeilAbove1 + 1
  bitThreshold := bitThreshold

/-- What the environment presents in step `n` when nothing has been decided for it: a free draw
(00_scope.md R7, 93_implementation_defined.md I10 to I12); log 1. -/
opaque freeInputs : Nat → Inputs

/-- `BASE_ADDR`, left to the platform; no rule reads it (00_scope.md R12, D39); log 17. -/
opaque baseAddr : Nat

end Config

/-- `CMAX`, the largest ceiling or hold; bounds the step counter (00_scope.md R11). -/
def Params.cmax (p : Params) : Nat :=
  max p.idleCeil (max p.startHold (max p.ackLowCeil (max p.ackHighCeil (max p.syncCeil p.dataCeil))))

/-- `L_max`, the bound on the steps of one attempt (70_reset_and_hazards.md R264). -/
def Params.maxLatency (p : Params) : Nat :=
  1 + p.idleCeil + p.startHold + p.ackLowCeil + p.ackHighCeil
    + Config.nSlots * (p.syncCeil + p.dataCeil) + 2

end Sys2Proof
end

