-- ==== Sys2Proof/Syntax.lean ====
section
/-! DEFINITION. The instructions of the decoder: the host transactions of spec/opcode_table.json, one constructor per
row. Bits an encoding calls ignored are kept as operands, so that every transaction word is some instruction's
encoding and no bit is dropped (log 18). -/

namespace Sys2Proof

/-- A host transaction (30_encoding.md R81, R83). `ign` and `data` are bits the decoder ignores; `idx` is the word
index of a row that covers more than one word. -/
inductive Instr where
  /-- NOP (40_command_interface.md R113). -/
  | nop (ign : BitVec 30)
  /-- ATTEMPT_READ (40_command_interface.md R114). -/
  | attemptRead (ign : BitVec 30)
  /-- RESET_CLOCK_REF (40_command_interface.md R115). -/
  | resetClockRef (ign : BitVec 30)
  /-- CMD_RESERVED (40_command_interface.md R116). -/
  | cmdReserved (ign : BitVec 30)
  /-- RD_CTRL (40_command_interface.md R123). -/
  | rdCtrl (ign : BitVec 32)
  /-- RD_STATUS (40_command_interface.md R124). -/
  | rdStatus (ign : BitVec 32)
  /-- RD_READING (40_command_interface.md R125). -/
  | rdReading (ign : BitVec 32)
  /-- RD_RAW (40_command_interface.md R126). -/
  | rdRaw (ign : BitVec 32)
  /-- RD_CHECK (40_command_interface.md R127). -/
  | rdCheck (ign : BitVec 32)
  /-- RD_LAST_MS (40_command_interface.md R128). -/
  | rdLastMs (ign : BitVec 32)
  /-- RD_UNMAPPED, words 6 and 7 (40_command_interface.md R129). -/
  | rdUnmapped (idx : WordIdx) (ign : BitVec 32)
  /-- WR_IGNORED_1, word 1 (40_command_interface.md R118). -/
  | wrIgnored1 (data : Word)
  /-- WR_IGNORED_2_3, words 2 and 3 (40_command_interface.md R118). -/
  | wrIgnored23 (idx : WordIdx) (data : Word)
  /-- WR_IGNORED_4_7, words 4 to 7 (40_command_interface.md R118). -/
  | wrIgnored47 (idx : WordIdx) (data : Word)
  deriving DecidableEq, Repr

end Sys2Proof
end

