-- ==== Sys2Proof/WellFormed.lean ====
section
/-! DEFINITION. Which instructions and which parameter records are ones of this hardware. -/

namespace Sys2Proof

/-- An instruction whose row covers several words names one of those words (30_encoding.md R83, rows RD_UNMAPPED,
WR_IGNORED_2_3 and WR_IGNORED_4_7). Every other operand may hold any value (R82, R85). -/
def Instr.wf : Instr → Bool
  | .nop _ => true
  | .attemptRead _ => true
  | .resetClockRef _ => true
  | .cmdReserved _ => true
  | .rdCtrl _ => true
  | .rdStatus _ => true
  | .rdReading _ => true
  | .rdRaw _ => true
  | .rdCheck _ => true
  | .rdLastMs _ => true
  | .rdUnmapped idx _ => idx == 6#3 || idx == 7#3
  | .wrIgnored1 _ => true
  | .wrIgnored23 idx _ => idx == 2#3 || idx == 3#3
  | .wrIgnored47 idx _ => idx == 4#3 || idx == 5#3 || idx == 6#3 || idx == 7#3

/-- Legal values of the parameters: each ceiling and the hold at least 1, any threshold (00_scope.md R10). -/
def Params.legal (p : Params) : Bool :=
  decide (0 < p.idleCeil) && decide (0 < p.startHold) && decide (0 < p.ackLowCeil)
    && decide (0 < p.ackHighCeil) && decide (0 < p.syncCeil) && decide (0 < p.dataCeil)

end Sys2Proof
end

