-- ==== Sys2Proof/Decode.lean ====
section
/-! DEFINITION. Decoding and encoding of host transaction words (30_encoding.md R80 to R85). The decoder is total on
36-bit words; a number that is no 36-bit word is rejected by name. The encoder stands after the decoder and is written
from the formats of R81. -/

namespace Sys2Proof

/-- The transaction word of a step, `{reg_we_i, reg_addr_i, reg_wdata_i}` (30_encoding.md R80). -/
def Inputs.tw (i : Inputs) : TxWord := BitVec.ofBool i.regWe ++ i.regAddr ++ i.regWdata

/-- The same step with the host presenting the transaction word `w` (30_encoding.md R80). -/
def Inputs.withTw (i : Inputs) (w : TxWord) : Inputs :=
  { i with regWe := w.getLsbD 35, regAddr := w.extractLsb' 32 3, regWdata := w.extractLsb' 0 32 }

/-- Why a number is no transaction word. -/
inductive DecodeReject where
  /-- More than the 36 bits of `TW` (30_encoding.md R80: all instructions have this one length). -/
  | widerThan36Bits
  deriving DecidableEq, Repr

/-- The command a CTRL write carries, selected by CMD = `TW[1:0]` (30_encoding.md R84). -/
def decodeCommand (cmd : BitVec 2) (ign : BitVec 30) : Instr :=
  match cmd with
  | 0#2 => .nop ign
  | 1#2 => .attemptRead ign
  | 2#2 => .resetClockRef ign
  | 3#2 => .cmdReserved ign

/-- A transaction without a write strobe: a register read, selected by ADDR (30_encoding.md R81 format RD). -/
def decodeRead (addr : WordIdx) (ign : BitVec 32) : Instr :=
  match addr with
  | 0#3 => .rdCtrl ign
  | 1#3 => .rdStatus ign
  | 2#3 => .rdReading ign
  | 3#3 => .rdRaw ign
  | 4#3 => .rdCheck ign
  | 5#3 => .rdLastMs ign
  | 6#3 => .rdUnmapped 6#3 ign
  | 7#3 => .rdUnmapped 7#3 ign

/-- A transaction with a write strobe: a command at word 0, else an ignored write (30_encoding.md R81). -/
def decodeWrite (addr : WordIdx) (data : Word) : Instr :=
  match addr with
  | 0#3 => decodeCommand (data.extractLsb' 0 2) (data.extractLsb' 2 30)
  | 1#3 => .wrIgnored1 data
  | 2#3 => .wrIgnored23 2#3 data
  | 3#3 => .wrIgnored23 3#3 data
  | 4#3 => .wrIgnored47 4#3 data
  | 5#3 => .wrIgnored47 5#3 data
  | 6#3 => .wrIgnored47 6#3 data
  | 7#3 => .wrIgnored47 7#3 data

/-- The instruction a transaction word is (30_encoding.md R83): total on all 2^36 words. -/
def decode (w : TxWord) : Instr :=
  if w.getLsbD 35 then decodeWrite (w.extractLsb' 32 3) (w.extractLsb' 0 32)
  else decodeRead (w.extractLsb' 32 3) (w.extractLsb' 0 32)

/-- Decoding of any number: a transaction word is decoded, anything wider is rejected by name (log 16). -/
def decodeBits (w : Nat) : Except DecodeReject Instr :=
  if w < 2 ^ 36 then .ok (decode (BitVec.ofNat 36 w)) else .error .widerThan36Bits

/-- The host's view of the decoder: the instruction whose bits, numbered as spec/opcode_table.json numbers them, are
the low `nbits` bits of `w`, the bits above being 0 (log 16). -/
def decodeTableWord (nbits w : Nat) : Option Instr :=
  (decodeBits (w % 2 ^ nbits)).toOption

/-- Format CMD (30_encoding.md R81): `{1, 000, IGN[29:0], CMD[1:0]}`. -/
def encodeCommand (ign : BitVec 30) (cmd : BitVec 2) : TxWord := 1#1 ++ 0#3 ++ ign ++ cmd

/-- Format RD (30_encoding.md R81): `{0, ADDR[2:0], IGN[31:0]}`. -/
def encodeRead (addr : WordIdx) (ign : BitVec 32) : TxWord := 0#1 ++ addr ++ ign

/-- Format WRI (30_encoding.md R81): `{1, ADDR[2:0], IGN[31:0]}`. -/
def encodeIgnoredWrite (addr : WordIdx) (data : Word) : TxWord := 1#1 ++ addr ++ data

/-- The transaction word of an instruction (30_encoding.md R81, R83, R84). -/
def encode : Instr → TxWord
  | .nop ign => encodeCommand ign 0#2
  | .attemptRead ign => encodeCommand ign 1#2
  | .resetClockRef ign => encodeCommand ign 2#2
  | .cmdReserved ign => encodeCommand ign 3#2
  | .rdCtrl ign => encodeRead 0#3 ign
  | .rdStatus ign => encodeRead 1#3 ign
  | .rdReading ign => encodeRead 2#3 ign
  | .rdRaw ign => encodeRead 3#3 ign
  | .rdCheck ign => encodeRead 4#3 ign
  | .rdLastMs ign => encodeRead 5#3 ign
  | .rdUnmapped idx ign => encodeRead idx ign
  | .wrIgnored1 data => encodeIgnoredWrite 1#3 data
  | .wrIgnored23 idx data => encodeIgnoredWrite idx data
  | .wrIgnored47 idx data => encodeIgnoredWrite idx data

/-- A row of the opcode map: a word selects it when `(TW & mask) == match` (30_encoding.md R83). -/
structure OpcodeRow where
  /-- The row's mnemonic. -/
  mnemonic : String
  /-- The row's match value. -/
  pattern : TxWord
  /-- The row's mask. -/
  mask : TxWord
  deriving DecidableEq, Repr

/-- Does the word select the row (30_encoding.md R83)? -/
def OpcodeRow.selects (r : OpcodeRow) (w : TxWord) : Bool := (w &&& r.mask) == r.pattern

/-- The opcode map, row by row (30_encoding.md R83). -/
def opcodeMap : List OpcodeRow :=
  [ ⟨"NOP", 0x800000000#36, 0xF00000003#36⟩,
    ⟨"ATTEMPT_READ", 0x800000001#36, 0xF00000003#36⟩,
    ⟨"RESET_CLOCK_REF", 0x800000002#36, 0xF00000003#36⟩,
    ⟨"CMD_RESERVED", 0x800000003#36, 0xF00000003#36⟩,
    ⟨"RD_CTRL", 0x000000000#36, 0xF00000000#36⟩,
    ⟨"RD_STATUS", 0x100000000#36, 0xF00000000#36⟩,
    ⟨"RD_READING", 0x200000000#36, 0xF00000000#36⟩,
    ⟨"RD_RAW", 0x300000000#36, 0xF00000000#36⟩,
    ⟨"RD_CHECK", 0x400000000#36, 0xF00000000#36⟩,
    ⟨"RD_LAST_MS", 0x500000000#36, 0xF00000000#36⟩,
    ⟨"RD_UNMAPPED", 0x600000000#36, 0xE00000000#36⟩,
    ⟨"WR_IGNORED_1", 0x900000000#36, 0xF00000000#36⟩,
    ⟨"WR_IGNORED_2_3", 0xA00000000#36, 0xE00000000#36⟩,
    ⟨"WR_IGNORED_4_7", 0xC00000000#36, 0xC00000000#36⟩ ]

/-- The mnemonic of an instruction's row (30_encoding.md R83). -/
def Instr.mnemonic : Instr → String
  | .nop _ => "NOP"
  | .attemptRead _ => "ATTEMPT_READ"
  | .resetClockRef _ => "RESET_CLOCK_REF"
  | .cmdReserved _ => "CMD_RESERVED"
  | .rdCtrl _ => "RD_CTRL"
  | .rdStatus _ => "RD_STATUS"
  | .rdReading _ => "RD_READING"
  | .rdRaw _ => "RD_RAW"
  | .rdCheck _ => "RD_CHECK"
  | .rdLastMs _ => "RD_LAST_MS"
  | .rdUnmapped _ _ => "RD_UNMAPPED"
  | .wrIgnored1 _ => "WR_IGNORED_1"
  | .wrIgnored23 _ _ => "WR_IGNORED_2_3"
  | .wrIgnored47 _ _ => "WR_IGNORED_4_7"

/-- The word index an instruction presents on `reg_addr_i` (30_encoding.md R81). -/
def Instr.addr : Instr → WordIdx
  | .nop _ => 0#3
  | .attemptRead _ => 0#3
  | .resetClockRef _ => 0#3
  | .cmdReserved _ => 0#3
  | .rdCtrl _ => 0#3
  | .rdStatus _ => 1#3
  | .rdReading _ => 2#3
  | .rdRaw _ => 3#3
  | .rdCheck _ => 4#3
  | .rdLastMs _ => 5#3
  | .rdUnmapped idx _ => idx
  | .wrIgnored1 _ => 1#3
  | .wrIgnored23 idx _ => idx
  | .wrIgnored47 idx _ => idx

end Sys2Proof
end

