-- ==== Sys2Proof/Machine/State.lean ====
section
/-! DEFINITION. The machine's state. `Decoder` is the spec's state record, field by field (10_state.md R20). `State`
adds the other two arguments of the spec's `step : Params -> State -> Inputs -> State` (00_scope.md R8), the
parameters and the inputs the environment is to present, and the output ports as last seen. -/

namespace Sys2Proof.Machine

/-- The decoder's state, exactly the record of 10_state.md R20. Nothing else in the decoder holds a value from one
step to the next. -/
structure Decoder where
  /-- `st`, the FSM state register: this hardware's program counter (10_state.md R21). -/
  st : BitVec 4
  /-- `cnt`, polls or hold steps already made in the current FSM state (10_state.md R23); log 12. -/
  cnt : Nat
  /-- `bit_idx`, index of the current bit slot (10_state.md R24). -/
  bitIdx : BitVec 6
  /-- `frame`, decoded bits of the slots captured so far (10_state.md R25). -/
  frame : Frame
  /-- `last_ms`, timestamp of the last attempt that passed the rate check (10_state.md R26). -/
  lastMs : Word
  /-- `attempted`, set once `last_ms` holds a timestamp (10_state.md R26). -/
  attempted : Bool
  /-- `hum`, cached humidity in tenths of percent RH (10_state.md R27). -/
  hum : Half
  /-- `temp`, cached temperature in tenths of degree Celsius, two's complement (10_state.md R27). -/
  temp : Half
  /-- `valid`, set once a transaction has succeeded (10_state.md R27, R28). -/
  valid : Bool
  /-- `result`, code of the last finished attempt (10_state.md R28, 60_exceptions.md R220). -/
  result : BitVec 4
  /-- `done`, an attempt has finished since the last accepted ATTEMPT_READ (10_state.md R28). -/
  done : Bool
  /-- `cmd_err`, a command was rejected since the last accepted command (10_state.md R28). -/
  cmdErr : Bool
  /-- `raw_hum`, raw humidity field of the last complete frame (10_state.md R29). -/
  rawHum : Half
  /-- `raw_temp`, raw temperature field of the last complete frame (10_state.md R29). -/
  rawTemp : Half
  /-- `raw_ck`, transmitted checksum of the last complete frame (10_state.md R29). -/
  rawCk : Byte
  /-- `calc_ck`, checksum computed over the last complete frame (10_state.md R29). -/
  calcCk : Byte
  deriving DecidableEq, Repr

/-- RESET_STATE: every field at its reset value (70_reset_and_hazards.md R250). -/
def Decoder.resetState : Decoder where
  st := 0#4
  cnt := 0
  bitIdx := 0#6
  frame := 0#41
  lastMs := 0#32
  attempted := false
  hum := 0#16
  temp := 0#16
  valid := false
  result := 0#4
  done := false
  cmdErr := false
  rawHum := 0#16
  rawTemp := 0#16
  rawCk := 0#8
  calcCk := 0#8

/-- The output ports (10_state.md R36, R37). -/
structure Outputs where
  /-- `line_drive_low_o`: the decoder drives the line low. -/
  lineDriveLow : Bool
  /-- `reg_rdata_o`: the register read by the host. -/
  regRdata : Word
  /-- `busy_o`. -/
  busy : Bool
  /-- `done_o`. -/
  done : Bool
  deriving DecidableEq, Repr

/-- The whole machine: an instance (its parameters), its decoder, and its environment. -/
structure State where
  /-- The instance's elaboration-time parameters (00_scope.md R10); no step writes them; log 2. -/
  params : Params
  /-- The decoder's state (10_state.md R20). -/
  dec : Decoder
  /-- What the environment has already decided to present, the coming step first; log 1. -/
  script : List Inputs
  /-- The number of the coming step (00_scope.md R8); log 3. -/
  stepNo : Nat
  /-- The output ports as they stood during the last step (10_state.md R37); log 4. -/
  seen : Outputs
  deriving DecidableEq, Repr

/-- Why a step stops. No state reachable from reset raises one of these. -/
inductive Fault where
  /-- `st` holds one of the codes 10 to 15, which no reachable state holds. Raised by the FSM dispatch
  (40_command_interface.md R121, 93_implementation_defined.md I5). Safe: the model stops. Log 5. -/
  | unreachableFsmCode
  /-- `result` holds one of the codes 9 to 15, which no reachable state holds. Raised by the FSM dispatch
  (60_exceptions.md R220, 93_implementation_defined.md I6). Safe: the model stops. Log 6. -/
  | unreachableResultCode
  deriving DecidableEq, Repr

/-- Why the model has no meaning for a step. -/
inductive Refusal where
  /-- The instruction of this mnemonic has no meaning yet. Raised by an arm of `exec` only; no arm does. Safe. -/
  | notModelled (mnemonic : String)
  /-- The parameter record has a ceiling or the hold at 0: not a configuration of this hardware (00_scope.md R10,
  93_implementation_defined.md I3). Raised by `step`. Safe: the model rejects the configuration. Log 7. -/
  | illegalParams
  deriving DecidableEq, Repr

/-- The machine right after reset (70_reset_and_hazards.md R250): every field of the decoder at its reset value and
every output port 0; an unknown legal instance (log 2), nothing scripted by the environment (log 1), no step taken
(log 3), the ports not read yet (log 4). -/
def State.reset : State where
  params := Config.params
  dec := Decoder.resetState
  script := []
  stepNo := 0
  seen := { lineDriveLow := false, regRdata := 0#32, busy := false, done := false }

end Sys2Proof.Machine
end

