-- ==== Sys2Proof/Machine/Codes.lean ====
section
/-! DEFINITION. The names behind the two 4-bit codes of the state record: the FSM states (10_state.md R21) and the
result codes (60_exceptions.md R220). -/

namespace Sys2Proof.Machine

/-- The FSM states (10_state.md R21). -/
inductive Fsm where
  | ready | rateCheck | idleWait | startPulse | ackLowWait | ackHighWait
  | bitSyncWait | bitHighWait | assemble | checksumVerify
  deriving DecidableEq, Repr

/-- The 4-bit code of an FSM state (10_state.md R21). -/
def fsmCode : Fsm → BitVec 4
  | .ready => 0#4
  | .rateCheck => 1#4
  | .idleWait => 2#4
  | .startPulse => 3#4
  | .ackLowWait => 4#4
  | .ackHighWait => 5#4
  | .bitSyncWait => 6#4
  | .bitHighWait => 7#4
  | .assemble => 8#4
  | .checksumVerify => 9#4

/-- The FSM state of a code; codes 10 to 15 are none (10_state.md R21). -/
def fsmOf (code : BitVec 4) : Option Fsm :=
  match code with
  | 0#4 => some .ready
  | 1#4 => some .rateCheck
  | 2#4 => some .idleWait
  | 3#4 => some .startPulse
  | 4#4 => some .ackLowWait
  | 5#4 => some .ackHighWait
  | 6#4 => some .bitSyncWait
  | 7#4 => some .bitHighWait
  | 8#4 => some .assemble
  | 9#4 => some .checksumVerify
  | _ => none

/-- The result codes (60_exceptions.md R220). -/
inductive ResultCode where
  | none | ok | rateLimited | busHung | notPresent | ackTooLong | syncTimeout | dataTimeout | checksum
  deriving DecidableEq, Repr

/-- The 4-bit number of a result code (60_exceptions.md R220). -/
def resultCode : ResultCode → BitVec 4
  | .none => 0#4
  | .ok => 1#4
  | .rateLimited => 2#4
  | .busHung => 3#4
  | .notPresent => 4#4
  | .ackTooLong => 5#4
  | .syncTimeout => 6#4
  | .dataTimeout => 7#4
  | .checksum => 8#4

/-- Is the number one of the result codes 0 to 8 (60_exceptions.md R220)? -/
def resultCodeExists (code : BitVec 4) : Bool := decide (code.toNat ≤ 8)

end Sys2Proof.Machine
end

