-- ==== Sys2Proof/Machine/Flags.lean ====
section
/-! DEFINITION. Every flag and one-bit output the spec gives: which condition it shows and who sets and clears it
(10_state.md R28, R37). -/

namespace Sys2Proof.Machine

/-- STATUS.BUSY and `busy_o`: the FSM is not in READY (10_state.md R31, R37). -/
def busyFlag (d : Decoder) : Bool := d.st != fsmCode .ready

/-- `line_drive_low_o`: the line is driven low exactly in START_PULSE (10_state.md R37). -/
def lineDriveLow (d : Decoder) : Bool := d.st == fsmCode .startPulse

/-- `done_o`: the level of `done` (10_state.md R37, 60_exceptions.md R229). -/
def doneFlag (d : Decoder) : Bool := d.done

/-- A rejected command sets `cmd_err` and writes nothing else (40_command_interface.md R116, R117). -/
def rejectCommand (d : Decoder) : Decoder := { d with cmdErr := true }

/-- Does the FSM state sample `line_i`: exactly the five wait states do (10_state.md R38). -/
def samplesLine (st : BitVec 4) : Bool :=
  st == fsmCode .idleWait || st == fsmCode .ackLowWait || st == fsmCode .ackHighWait
    || st == fsmCode .bitSyncWait || st == fsmCode .bitHighWait

end Sys2Proof.Machine
end

