-- ==== Sys2Proof/Machine/Operands.lean ====
section
/-! DEFINITION. The operand of a register access: the eight words of the register window, each with its field layout
(10_state.md R30 to R35, 20_memory.md R61), and `RegRead` (40_command_interface.md R119). -/

namespace Sys2Proof.Machine

/-- STATUS, word 1 (10_state.md R31). -/
def statusWord (d : Decoder) : Word :=
  0#10 ++ d.bitIdx ++ d.st ++ d.result ++ 0#3 ++ BitVec.ofBool d.attempted ++ BitVec.ofBool d.cmdErr
    ++ BitVec.ofBool d.valid ++ BitVec.ofBool d.done ++ BitVec.ofBool (busyFlag d)

/-- READING, word 2 (10_state.md R32). -/
def readingWord (d : Decoder) : Word := d.temp ++ d.hum

/-- RAW, word 3 (10_state.md R33). -/
def rawWord (d : Decoder) : Word := d.rawTemp ++ d.rawHum

/-- CHECK, word 4 (10_state.md R34). -/
def checkWord (d : Decoder) : Word := 0#16 ++ d.calcCk ++ d.rawCk

/-- `RegRead(idx)`, a pure function of the state and the index (40_command_interface.md R119, 20_memory.md R67). -/
def regRead (d : Decoder) (idx : WordIdx) : Word :=
  match idx with
  | 0#3 => 0#32
  | 1#3 => statusWord d
  | 2#3 => readingWord d
  | 3#3 => rawWord d
  | 4#3 => checkWord d
  | 5#3 => d.lastMs
  | 6#3 => 0#32
  | 7#3 => 0#32

/-- The output ports during a step: functions of the state, `reg_rdata_o` also of `reg_addr_i` (10_state.md R37). -/
def outputs (d : Decoder) (addr : WordIdx) : Outputs where
  lineDriveLow := lineDriveLow d
  regRdata := regRead d addr
  busy := busyFlag d
  done := doneFlag d

end Sys2Proof.Machine
end

