-- ==== Sys2Proof/Machine/Ops.lean ====
section
/-! DEFINITION. The shared operations: sampling the inputs of a step, presenting the outputs, the two command
acceptances, `finish` (this hardware's taking of an exception), the bounded wait, and reset. There is no return from an
exception: a failure ends in READY (60_exceptions.md R226). -/

namespace Sys2Proof.Machine

/-- What the environment presents in the `n`-th coming step (0 for the next): the script's entry, else a free draw
(00_scope.md R7); log 1. -/
def State.presented (s : State) (n : Nat) : Inputs :=
  (s.script.drop n).headD (Config.freeInputs (s.stepNo + n))

/-- The inputs sampled in the coming step. The line is wired-AND: it reads low while the decoder drives it
(20_memory.md R73, D37); log 10. -/
def State.inputs (s : State) : Inputs :=
  { s.presented 0 with line := (s.presented 0).line && !lineDriveLow s.dec }

/-- The host transaction of the coming step. -/
def State.fetch (s : State) : Instr := decode s.inputs.tw

/-- The output ports of the step are seen, with the word index the host presents (10_state.md R37,
40_command_interface.md R119): the value is of the state before the step (20_memory.md R69). -/
def State.present (s : State) (addr : WordIdx) : State := { s with seen := outputs s.dec addr }

/-- The same machine with another decoder state. -/
def State.withDec (s : State) (d : Decoder) : State := { s with dec := d }

/-- The step is over: the environment moves on to the next step's inputs. -/
def State.advance (s : State) : State := { s with script := s.script.tail, stepNo := s.stepNo + 1 }

/-- A command is accepted in READY only (40_command_interface.md R112); otherwise it is rejected (R117). -/
def acceptIfReady (accept : Decoder → Decoder) (d : Decoder) : Decoder :=
  if d.st = fsmCode .ready then accept d else rejectCommand d

/-- AcceptAttempt (40_command_interface.md R114). -/
def acceptAttempt (d : Decoder) : Decoder :=
  { d with st := fsmCode .rateCheck, done := false, cmdErr := false }

/-- AcceptClockRef (40_command_interface.md R115). -/
def acceptClockRef (nowMs : Word) (d : Decoder) : Decoder :=
  { d with lastMs := nowMs, attempted := true, cmdErr := false }

/-- `finish(code)`, the terminal action: this hardware's trap entry (60_exceptions.md R222). It writes these four
fields and no other. -/
def finish (code : ResultCode) (d : Decoder) : Decoder :=
  { d with st := fsmCode .ready, result := resultCode code, done := true, cnt := 0 }

/-- `st' <- S` (00_scope.md R15). -/
def goto (next : Fsm) (d : Decoder) : Decoder := { d with st := fsmCode next }

/-- `WAIT(target, C, fail, k)` (41_handshake.md R140): one poll of the line. `s` is the state before the step, read for
`cnt`; `d` is the state being written; `k c` is the success action at poll number `c`. -/
def wait (target : Bool) (ceil : Nat) (fail : ResultCode) (k : Nat → Decoder → Decoder)
    (s : Decoder) (inp : Inputs) (d : Decoder) : Decoder :=
  if inp.line = target then k (s.cnt + 1) { d with cnt := 0 }
  else if s.cnt + 1 ≥ ceil then finish fail d
  else { d with cnt := s.cnt + 1 }

/-- A step with `rst_i = 1`: the next state is RESET_STATE whatever the state and the other inputs are
(70_reset_and_hazards.md R250); the outputs of the step are still those of the state before it (R251). -/
def State.resetStep (s : State) : State :=
  ((s.present s.inputs.regAddr).withDec Decoder.resetState).advance

end Sys2Proof.Machine
end

