-- ==== Sys2Proof/Machine/Commands.lean ====
section
/-! DEFINITION. The commands: what a write of CTRL does in the step it is presented (40_command_interface.md R112 to
R117). Each presents `RegRead(0)` on the port (R119) and makes its writes; the transaction in progress is moved on by
the same step's FSM dispatch (R110), not here. -/

namespace Sys2Proof.Machine

/-- NOP: no field is written (40_command_interface.md R113). -/
def execNop (_ign : BitVec 30) (s : State) : Host.Outcome State Fault Refusal :=
  .next (s.present 0#3)

/-- ATTEMPT_READ: starts a transaction in READY (40_command_interface.md R114), is rejected while busy (R117). -/
def execAttemptRead (_ign : BitVec 30) (s : State) : Host.Outcome State Fault Refusal :=
  .next ((s.present 0#3).withDec (acceptIfReady acceptAttempt s.dec))

/-- RESET_CLOCK_REF: re-bases the rate limiter on this step's `now_ms_i` in READY (40_command_interface.md R115), is
rejected while busy (R117). -/
def execResetClockRef (_ign : BitVec 30) (s : State) : Host.Outcome State Fault Refusal :=
  .next ((s.present 0#3).withDec (acceptIfReady (acceptClockRef s.inputs.nowMs) s.dec))

/-- CMD_RESERVED: sets `cmd_err`, in any state (40_command_interface.md R116). -/
def execCmdReserved (_ign : BitVec 30) (s : State) : Host.Outcome State Fault Refusal :=
  .next ((s.present 0#3).withDec (rejectCommand s.dec))

end Sys2Proof.Machine
end

