-- ==== Sys2Proof/Machine/IgnoredWrites.lean ====
section
/-! DEFINITION. Writes to words 1 to 7 (40_command_interface.md R118): no field is written; the port shows the word as
for a read. -/

namespace Sys2Proof.Machine

/-- WR_IGNORED_1: a write to STATUS (40_command_interface.md R118). -/
def execWrIgnored1 (_data : Word) (s : State) : Host.Outcome State Fault Refusal := .next (s.present 1#3)

/-- WR_IGNORED_2_3: a write to READING or RAW (40_command_interface.md R118). -/
def execWrIgnored23 (idx : WordIdx) (_data : Word) (s : State) : Host.Outcome State Fault Refusal :=
  .next (s.present idx)

/-- WR_IGNORED_4_7: a write to CHECK, LAST_MS or an unmapped word (40_command_interface.md R118). -/
def execWrIgnored47 (idx : WordIdx) (_data : Word) (s : State) : Host.Outcome State Fault Refusal :=
  .next (s.present idx)

end Sys2Proof.Machine
end

