-- ==== Sys2Proof/Machine/RegisterReads.lean ====
section
/-! DEFINITION. The register reads (40_command_interface.md R119, R123 to R129): the word's value stands on
`reg_rdata_o` during the step; no field of the decoder is written (20_memory.md R67). -/

namespace Sys2Proof.Machine

/-- RD_CTRL (40_command_interface.md R123). -/
def execRdCtrl (_ign : BitVec 32) (s : State) : Host.Outcome State Fault Refusal := .next (s.present 0#3)

/-- RD_STATUS (40_command_interface.md R124). -/
def execRdStatus (_ign : BitVec 32) (s : State) : Host.Outcome State Fault Refusal := .next (s.present 1#3)

/-- RD_READING (40_command_interface.md R125). -/
def execRdReading (_ign : BitVec 32) (s : State) : Host.Outcome State Fault Refusal := .next (s.present 2#3)

/-- RD_RAW (40_command_interface.md R126). -/
def execRdRaw (_ign : BitVec 32) (s : State) : Host.Outcome State Fault Refusal := .next (s.present 3#3)

/-- RD_CHECK (40_command_interface.md R127). -/
def execRdCheck (_ign : BitVec 32) (s : State) : Host.Outcome State Fault Refusal := .next (s.present 4#3)

/-- RD_LAST_MS (40_command_interface.md R128). -/
def execRdLastMs (_ign : BitVec 32) (s : State) : Host.Outcome State Fault Refusal := .next (s.present 5#3)

/-- RD_UNMAPPED, word `idx` (40_command_interface.md R129). -/
def execRdUnmapped (idx : WordIdx) (_ign : BitVec 32) (s : State) : Host.Outcome State Fault Refusal :=
  .next (s.present idx)

end Sys2Proof.Machine
end

