-- ==== Sys2Proof/Machine/Dispatch.lean ====
section
/-! DEFINITION. The meaning of every host transaction, one arm per constructor of `Instr`: the HostWrite part of a step
and the value on the read port (40_command_interface.md R112, R119). -/

namespace Sys2Proof.Machine

def exec (i : Instr) (s : State) : Host.Outcome State Fault Refusal :=
  match i with
  | .nop ign => Sys2Proof.Machine.execNop ign s
  | .attemptRead ign => Sys2Proof.Machine.execAttemptRead ign s
  | .resetClockRef ign => Sys2Proof.Machine.execResetClockRef ign s
  | .cmdReserved ign => Sys2Proof.Machine.execCmdReserved ign s
  | .rdCtrl ign => Sys2Proof.Machine.execRdCtrl ign s
  | .rdStatus ign => Sys2Proof.Machine.execRdStatus ign s
  | .rdReading ign => Sys2Proof.Machine.execRdReading ign s
  | .rdRaw ign => Sys2Proof.Machine.execRdRaw ign s
  | .rdCheck ign => Sys2Proof.Machine.execRdCheck ign s
  | .rdLastMs ign => Sys2Proof.Machine.execRdLastMs ign s
  | .rdUnmapped idx ign => Sys2Proof.Machine.execRdUnmapped idx ign s
  | .wrIgnored1 data => Sys2Proof.Machine.execWrIgnored1 data s
  | .wrIgnored23 idx data => Sys2Proof.Machine.execWrIgnored23 idx data s
  | .wrIgnored47 idx data => Sys2Proof.Machine.execWrIgnored47 idx data s

end Sys2Proof.Machine
end

