-- ==== Sys2Proof/Machine/BitCapture.lean ====
section
/-! DEFINITION. The pulse-width sampler and threshold bit decoder (42_bit_capture.md): BIT_SYNC_WAIT and BIT_HIGH_WAIT.
The line levels are the literal ones of R160: the sync waits for low, the counted wait counts polls until high
(90_conflicts.md C6, log 15). -/

namespace Sys2Proof.Machine

/-- The index of the last slot (42_bit_capture.md R160: slots 0 to 40). -/
def lastSlot : BitVec 6 := 40#6

/-- The threshold decoder: a sample above `P_BIT_THRESHOLD` is a 1 (42_bit_capture.md R163). -/
def bitOf (p : Params) (c : Nat) : Bool := decide (c > p.bitThreshold)

/-- The bit enters `frame` at bit 0 and bit 40 drops out (42_bit_capture.md R162, R164). -/
def shiftFrame (f : Frame) (b : Bool) : Frame := f.extractLsb' 0 40 ++ BitVec.ofBool b

/-- BIT_SYNC_WAIT, bounded wait for the start-of-bit low (42_bit_capture.md R161). -/
def bitSyncWait (p : Params) (s : Decoder) (inp : Inputs) (d : Decoder) : Decoder :=
  wait false p.syncCeil .syncTimeout (fun _ => goto .bitHighWait) s inp d

/-- The success action of BIT_HIGH_WAIT at sample `c` (42_bit_capture.md R162). -/
def captureBit (p : Params) (s : Decoder) (c : Nat) (d : Decoder) : Decoder :=
  if s.bitIdx = lastSlot then goto .assemble { d with frame := shiftFrame s.frame (bitOf p c) }
  else goto .bitSyncWait
    { d with frame := shiftFrame s.frame (bitOf p c), bitIdx := s.bitIdx + 1#6 }

/-- BIT_HIGH_WAIT, counted wait for high; the poll number of the successful poll is the sample
(42_bit_capture.md R162). -/
def bitHighWait (p : Params) (s : Decoder) (inp : Inputs) (d : Decoder) : Decoder :=
  wait true p.dataCeil .dataTimeout (captureBit p s) s inp d

end Sys2Proof.Machine
end

