-- ==== Sys2Proof/Machine/Framing.lean ====
section
/-! DEFINITION. Bitstream framing and checksum validation (43_framing_checksum.md): ASSEMBLE and CHECKSUM_VERIFY, the
reconstruction of the reading, the decode of a whole frame as one function (R186), and the wire encoding of a reading
(30_encoding.md R87 to R93). -/

namespace Sys2Proof.Machine

/-- The high byte of a 16-bit field (20_memory.md R64). -/
def highByte (f : Half) : Byte := f.extractLsb' 8 8

/-- The low byte of a 16-bit field (20_memory.md R64). -/
def lowByte (f : Half) : Byte := f.extractLsb' 0 8

/-- `CalcCk`: the four wire bytes summed modulo 256, over the raw fields (43_framing_checksum.md R181). -/
def calcCk (rh rt : Half) : Byte := highByte rh + lowByte rh + highByte rt + lowByte rt

/-- `HumOf`: bit 15 is masked off (43_framing_checksum.md R183). -/
def humOf (rh : Half) : Half := (rh.extractLsb' 0 15).setWidth 16

/-- `TempOf`: bit 15 is a sign flag over a 15-bit magnitude (43_framing_checksum.md R184). -/
def tempOf (rt : Half) : Half :=
  if rt.getLsbD 15 then 0#16 - (rt.extractLsb' 0 15).setWidth 16 else (rt.extractLsb' 0 15).setWidth 16

/-- The raw humidity field of a frame, slots 1 to 16 (30_encoding.md R88). -/
def frameHum (f : Frame) : Half := f.extractLsb' 24 16

/-- The raw temperature field of a frame, slots 17 to 32 (30_encoding.md R88). -/
def frameTemp (f : Frame) : Half := f.extractLsb' 8 16

/-- The checksum field of a frame, slots 33 to 40 (30_encoding.md R88). -/
def frameCk (f : Frame) : Byte := f.extractLsb' 0 8

/-- ASSEMBLE, one step (43_framing_checksum.md R180). -/
def assemble (s : Decoder) (d : Decoder) : Decoder :=
  goto .checksumVerify
    { d with
      rawHum := frameHum s.frame
      rawTemp := frameTemp s.frame
      rawCk := frameCk s.frame
      calcCk := calcCk (frameHum s.frame) (frameTemp s.frame) }

/-- `Accept`: the reading is cached and the attempt ends with OK (43_framing_checksum.md R185). -/
def acceptReading (s : Decoder) (d : Decoder) : Decoder :=
  finish .ok { d with hum := humOf s.rawHum, temp := tempOf s.rawTemp, valid := true }

/-- CHECKSUM_VERIFY, one step (43_framing_checksum.md R182). -/
def checksumVerify (s : Decoder) (d : Decoder) : Decoder :=
  if s.calcCk ≠ s.rawCk then finish .checksum d else acceptReading s d

/-- `DecodeFrame`: the reading a complete frame carries, or none where the checksum fails
(43_framing_checksum.md R186). -/
def decodeFrame (f : Frame) : Option (Half × Half) :=
  if calcCk (frameHum f) (frameTemp f) ≠ frameCk f then none
  else some (humOf (frameHum f), tempOf (frameTemp f))

/-- The raw temperature field of a temperature in tenths: sign and magnitude (30_encoding.md R93). -/
def wireTemp (t : Int) : Half :=
  if 0 ≤ t then BitVec.ofInt 16 t else 0x8000#16 ||| BitVec.ofInt 16 (-t)

/-- The raw humidity field of a humidity in tenths (30_encoding.md R93). -/
def wireHum (h : Nat) : Half := BitVec.ofNat 16 h

/-- The frame `{b_0, RH, RT, CK}` (30_encoding.md R88). -/
def packFrame (b0 : Bool) (rh rt : Half) (ck : Byte) : Frame := BitVec.ofBool b0 ++ rh ++ rt ++ ck

/-- The frame of a reading, with a correct checksum and any spurious bit (30_encoding.md R93). -/
def encodeFrame (b0 : Bool) (h : Nat) (t : Int) : Frame :=
  packFrame b0 (wireHum h) (wireTemp t) (calcCk (wireHum h) (wireTemp t))

end Sys2Proof.Machine
end

