-- ==== Sys2Proof/Machine/Handshake.lean ====
section
/-! DEFINITION. The handshake states (41_handshake.md): RATE_CHECK, IDLE_WAIT, START_PULSE, ACK_LOW_WAIT and
ACK_HIGH_WAIT. In each rule `s` is the state before the step and `d` the state being written (00_scope.md R15). -/

namespace Sys2Proof.Machine

/-- Milliseconds since `last_ms`, modulo 2^32 (41_handshake.md R141, D11). -/
def elapsedMs (nowMs lastMs : Word) : Word := nowMs - lastMs

/-- Does the rate check limit the attempt (41_handshake.md R141)? -/
def rateLimits (s : Decoder) (nowMs : Word) : Bool :=
  s.attempted && decide ((elapsedMs nowMs s.lastMs).toNat < Config.minIntervalMs)

/-- RATE_CHECK, one step (41_handshake.md R141). -/
def rateCheck (s : Decoder) (inp : Inputs) (d : Decoder) : Decoder :=
  if rateLimits s inp.nowMs then finish .rateLimited d
  else goto .idleWait { d with lastMs := inp.nowMs, attempted := true, cnt := 0 }

/-- IDLE_WAIT, bounded wait for high (41_handshake.md R142). -/
def idleWait (p : Params) (s : Decoder) (inp : Inputs) (d : Decoder) : Decoder :=
  wait true p.idleCeil .busHung (fun _ => goto .startPulse) s inp d

/-- START_PULSE, a hold of `P_START_HOLD` steps; the line is not sampled (41_handshake.md R143). -/
def startPulse (p : Params) (s : Decoder) (d : Decoder) : Decoder :=
  if s.cnt + 1 ≥ p.startHold then goto .ackLowWait { d with cnt := 0 }
  else { d with cnt := s.cnt + 1 }

/-- ACK_LOW_WAIT, bounded wait for low (41_handshake.md R144). -/
def ackLowWait (p : Params) (s : Decoder) (inp : Inputs) (d : Decoder) : Decoder :=
  wait false p.ackLowCeil .notPresent (fun _ => goto .ackHighWait) s inp d

/-- ACK_HIGH_WAIT, bounded wait for high; on success the capture begins at slot 0 with an empty frame
(41_handshake.md R145). -/
def ackHighWait (p : Params) (s : Decoder) (inp : Inputs) (d : Decoder) : Decoder :=
  wait true p.ackHighCeil .ackTooLong
    (fun _ d => goto .bitSyncWait { d with bitIdx := 0#6, frame := 0#41 }) s inp d

end Sys2Proof.Machine
end

