-- ==== Sys2Proof/Machine/Sequencer.lean ====
section
/-! DEFINITION. The FSM dispatch of a step (40_command_interface.md R121) and the end of a step. -/

namespace Sys2Proof.Machine

/-- The rule of one FSM state (40_command_interface.md R121). In READY the decoder does nothing of its own (R122). -/
def runFsm (f : Fsm) (p : Params) (s : Decoder) (inp : Inputs) (d : Decoder) : Decoder :=
  match f with
  | .ready => d
  | .rateCheck => rateCheck s inp d
  | .idleWait => idleWait p s inp d
  | .startPulse => startPulse p s d
  | .ackLowWait => ackLowWait p s inp d
  | .ackHighWait => ackHighWait p s inp d
  | .bitSyncWait => bitSyncWait p s inp d
  | .bitHighWait => bitHighWait p s inp d
  | .assemble => assemble s d
  | .checksumVerify => checksumVerify s d

/-- Dispatch: reads the state `s` before the step and writes `d`. An FSM code 10 to 15 faults
(40_command_interface.md R121; log 5), and so does a result code 9 to 15 (93_implementation_defined.md I6; log 6). -/
def dispatch (p : Params) (s : Decoder) (inp : Inputs) (d : Decoder) : Except Fault Decoder :=
  match fsmOf s.st with
  | none => .error .unreachableFsmCode
  | some f =>
    if resultCodeExists s.result then .ok (runFsm f p s inp d) else .error .unreachableResultCode

/-- The second half of a step (40_command_interface.md R110): Dispatch reads `s`, the state before the step, and
writes `t`, the state its host transaction left; then the step is over. -/
def endStep (s t : State) : Host.Outcome State Fault Refusal :=
  match dispatch s.params s.dec s.inputs t.dec with
  | .ok d => .next (t.withDec d).advance
  | .error f => .fault f

/-- The machine with the transaction word `w` presented, without reset, in its coming step; the line, the clock and
every later step as they would have been (log 1). -/
def State.withTransaction (s : State) (w : TxWord) : State :=
  { s with script := { (s.presented 0).withTw w with rst := false } :: s.script.tail }

end Sys2Proof.Machine
end

