-- ==== Sys2Proof/Machine/Step.lean ====
section
/-! DEFINITION. One step of the machine (40_command_interface.md R110): reset, else the host transaction and the FSM
dispatch. -/

namespace Sys2Proof.Machine

/-- One clock edge. An illegal parameter record is refused first (00_scope.md R10; log 7); `rst_i` overrides everything
else (60_exceptions.md R224); otherwise the host transaction has its effect and the FSM state's rule runs, both reading
the state before the step (40_command_interface.md R110). -/
def step (s : State) : Host.Outcome State Fault Refusal :=
  if s.params.legal then
    if s.inputs.rst then .next s.resetStep
    else
      match exec s.fetch s with
      | .next t => endStep s t
      | .fault f => .fault f
      | .refused r => .refused r
  else .refused .illegalParams

/-- The transaction word of `nbits` bits `w` presented in the coming step (log 1, log 16). -/
def State.withFetchWord (s : State) (nbits w : Nat) : State :=
  s.withTransaction (BitVec.ofNat 36 (w % 2 ^ nbits))

end Sys2Proof.Machine
end

