-- ==== Sys2Proof/Machine/HostProgram.lean ====
section
/-! DEFINITION. Host programs (30_encoding.md R86): the lines the spec writes its programs in, the transaction words
they present, and a bench that presents them. This is the host and the environment, not the decoder; the decoder's
rules never depend on it (log 20). -/

namespace Sys2Proof.Machine

/-- The register names of a host program; `word6` and `word7` are its numerals 6 and 7 (30_encoding.md R86). -/
inductive HostReg where
  | ctrl | status | reading | raw | check | lastMs | word6 | word7
  deriving DecidableEq, Repr

/-- The word index of a register name (20_memory.md R61). -/
def hostRegIdx : HostReg → WordIdx
  | .ctrl => 0#3
  | .status => 1#3
  | .reading => 2#3
  | .raw => 3#3
  | .check => 4#3
  | .lastMs => 5#3
  | .word6 => 6#3
  | .word7 => 7#3

/-- One line of a host program, or one of its two environment directives (30_encoding.md R86). -/
inductive HostLine where
  /-- `WR <reg>, <value>`. -/
  | wr (reg : HostReg) (value : Word)
  /-- `RD <reg>`. -/
  | rd (reg : HostReg)
  /-- `STEP <n>`. -/
  | stepMany (n : Nat)
  /-- `ATTEMPT_READ`, for `WR CTRL, 1`. -/
  | attemptRead
  /-- `RESET_CLOCK_REF`, for `WR CTRL, 2`. -/
  | resetClockRef
  /-- `NOP`, for `WR CTRL, 0`. -/
  | nop
  /-- `WAIT_DONE`: repeat `RD STATUS` until the value read has bit 1 set. -/
  | waitDone
  /-- `READ_SENSOR`, for `ATTEMPT_READ` then `WAIT_DONE`. -/
  | readSensor
  /-- The directive `NOW <v>`. -/
  | now (v : Word)
  /-- The directive `LINE <levels>`. -/
  | line (levels : List Bool)
  deriving DecidableEq, Repr

/-- The word of a `WR` line (30_encoding.md R86). -/
def wrWord (reg : HostReg) (value : Word) : TxWord := encodeIgnoredWrite (hostRegIdx reg) value

/-- The word of an `RD` line (30_encoding.md R86). -/
def rdWord (reg : HostReg) : TxWord := encodeRead (hostRegIdx reg) 0#32

/-- The environment of a host program: the clock, and the levels the line takes in the steps where the decoder
samples it; elsewhere, and when the levels run out, the line is 1 (30_encoding.md R86). -/
structure Bench where
  /-- `now_ms_i`. -/
  nowMs : Word
  /-- The levels still to be sampled. -/
  levels : List Bool
  /-- The machine. -/
  machine : State

/-- The inputs of a step in which the host presents `w` (30_encoding.md R86). -/
def Bench.inputs (b : Bench) (w : TxWord) : Inputs :=
  ({ rst := false, regWe := false, regAddr := 0#3, regWdata := 0#32,
     line := !samplesLine b.machine.dec.st || b.levels.headD true, nowMs := b.nowMs } : Inputs).withTw w

/-- One step with the host presenting `w`: the value on the read port and the bench after it, or none where the
machine stops (30_encoding.md R86). -/
def Bench.present (b : Bench) (w : TxWord) : Option (Word × Bench) :=
  match step { b.machine with script := b.inputs w :: b.machine.script.tail } with
  | .next t =>
    some (t.seen.regRdata,
      { b with machine := t, levels := if samplesLine b.machine.dec.st then b.levels.tail else b.levels })
  | .fault _ => none
  | .refused _ => none

/-- `n` steps of one word, results not recorded (30_encoding.md R86, `STEP`). -/
def Bench.presentMany (b : Bench) (w : TxWord) : Nat → Option Bench
  | 0 => some b
  | n + 1 =>
    match b.present w with
    | some (_, b') => b'.presentMany w n
    | none => none

/-- `RD STATUS` until the value read has DONE set, at most `fuel` times; the values read (30_encoding.md R86,
`WAIT_DONE`; 70_reset_and_hazards.md R264 bounds the repetitions an attempt needs). -/
def Bench.waitDone (b : Bench) : Nat → Option (List Word × Bench)
  | 0 => none
  | fuel + 1 =>
    match b.present (rdWord .status) with
    | some (v, b') =>
      if v.getLsbD 1 then some ([v], b')
      else match b'.waitDone fuel with
        | some (vs, b'') => some (v :: vs, b'')
        | none => none
    | none => none

/-- One line of a host program: the values it reads, one a step but for `STEP`, and the bench after it
(30_encoding.md R86). A `WAIT_DONE` gives up after `fuel` repetitions. -/
def Bench.runLine (fuel : Nat) (b : Bench) : HostLine → Option (List Word × Bench)
  | .wr reg value => (b.present (wrWord reg value)).map fun r => ([r.1], r.2)
  | .rd reg => (b.present (rdWord reg)).map fun r => ([r.1], r.2)
  | .stepMany n => (b.presentMany (rdWord .status) n).map fun b' => ([], b')
  | .attemptRead => (b.present (wrWord .ctrl 1#32)).map fun r => ([r.1], r.2)
  | .resetClockRef => (b.present (wrWord .ctrl 2#32)).map fun r => ([r.1], r.2)
  | .nop => (b.present (wrWord .ctrl 0#32)).map fun r => ([r.1], r.2)
  | .waitDone => b.waitDone fuel
  | .readSensor =>
    match b.present (wrWord .ctrl 1#32) with
    | some (v, b') => (b'.waitDone fuel).map fun r => (v :: r.1, r.2)
    | none => none
  | .now v => some ([], { b with nowMs := v })
  | .line levels => some ([], { b with levels := levels })

/-- A host program, line by line (30_encoding.md R86): all values read, and the bench after it. -/
def Bench.run (fuel : Nat) (b : Bench) : List HostLine → Option (List Word × Bench)
  | [] => some ([], b)
  | l :: ls =>
    match b.runLine fuel l with
    | some (vs, b') => (b'.run fuel ls).map fun r => (vs ++ r.1, r.2)
    | none => none

end Sys2Proof.Machine
end

