-- ==== Sys2Proof/Machine/Projections.lean ====
section
/-! DEFINITION. The host-side projections of the reading (44_host_projections.md). They are host arithmetic over the
READING register, exact rationals (D28; log 19), and never write the decoder (R200). -/

namespace Sys2Proof.Machine

/-- Humidity in tenths, `r[15:0]` (44_host_projections.md R201). -/
def humTenths (r : Word) : Nat := (r.extractLsb' 0 16).toNat

/-- Humidity in percent, exact (44_host_projections.md R202). -/
def humPercent (r : Word) : Rat := (humTenths r : Rat) / 10

/-- Temperature in tenths, `int16(r[31:16])` (44_host_projections.md R203). -/
def tempTenths (r : Word) : Int := (r.extractLsb' 16 16).toInt

/-- Temperature in degrees Celsius, exact (44_host_projections.md R204). -/
def tempC (r : Word) : Rat := (tempTenths r : Rat) / 10

/-- Temperature in degrees Fahrenheit, exact (44_host_projections.md R205). -/
def tempF (r : Word) : Rat := tempC r * 9 / 5 + 32

end Sys2Proof.Machine
end

