-- ==== Sys2Proof/Safety.lean ====
section
/-! DEFINITION. The terms the claims use: runs of several steps, the environment's promises over them, the whole next
state of a step, and the invariant of the reachable states (10_state.md R20 to R29). -/

namespace Sys2Proof.Machine

/-- `n` steps, stopping at the first fault or refusal. -/
def runSteps : Nat → State → Host.Outcome State Fault Refusal
  | 0, s => .next s
  | n + 1, s =>
    match step s with
    | .next t => runSteps n t
    | .fault f => .fault f
    | .refused r => .refused r

/-- The outcome with its next state changed by `g`. -/
def mapNext (g : State → State) : Host.Outcome State Fault Refusal → Host.Outcome State Fault Refusal
  | .next s => .next (g s)
  | .fault f => .fault f
  | .refused r => .refused r

/-- The decoder of a next state. -/
def nextDec : Host.Outcome State Fault Refusal → Option Decoder
  | .next s => some s.dec
  | .fault _ => none
  | .refused _ => none

/-- The environment asserts no reset in the coming `n` steps. -/
abbrev NoReset (s : State) (n : Nat) : Prop := ∀ j, j < n → (s.presented j).rst = false

/-- From the `k`-th coming step on the environment presents these line levels, one a step. -/
abbrev LineIs (s : State) (k : Nat) (levels : List Bool) : Prop :=
  ∀ j, j < levels.length → (s.presented (k + j)).line = levels.getD j true

/-- The host presents ATTEMPT_READ in the coming step. -/
def startsAttempt (s : State) : Bool :=
  match s.fetch with
  | .attemptRead _ => true
  | _ => false

/-- The host presents RESET_CLOCK_REF in the coming step. -/
def rebasesClock (s : State) : Bool :=
  match s.fetch with
  | .resetClockRef _ => true
  | _ => false

/-- A transaction that sets `cmd_err` while the decoder is busy: command codes 1, 2 and 3 (10_state.md R28). -/
def rejectedWhileBusy : Instr → Bool
  | .attemptRead _ => true
  | .resetClockRef _ => true
  | .cmdReserved _ => true
  | _ => false

/-- A transaction that writes nothing in any state: NOP, every register read, every ignored write. -/
def writesNothing : Instr → Bool
  | .attemptRead _ => false
  | .resetClockRef _ => false
  | .cmdReserved _ => false
  | _ => true

/-- The output ports of decoder state `d` with the value `v` on the read port (10_state.md R37). -/
def portsWith (d : Decoder) (v : Word) : Outputs where
  lineDriveLow := d.st == 3#4
  regRdata := v
  busy := d.st != 0#4
  done := d.done

/-- The whole machine after a step that leaves the decoder in `d`: the ports of the step have been seen, the
environment is at the next step, the parameters are the same. -/
def State.after (s : State) (d : Decoder) : State where
  params := s.params
  dec := d
  script := s.script.tail
  stepNo := s.stepNo + 1
  seen := portsWith s.dec (regRead s.dec s.inputs.regAddr)

/-- `cmd_err` after a step taken while busy (10_state.md R28). -/
def State.errAfter (s : State) : Bool := s.dec.cmdErr || rejectedWhileBusy s.fetch

/-- The coming step runs the rule of the FSM state with this code: a legal instance, no reset, a result code that
exists. -/
structure State.Runs (s : State) (code : BitVec 4) : Prop where
  legal : s.params.legal = true
  noReset : s.inputs.rst = false
  inState : s.dec.st = code
  resultExists : s.dec.result.toNat ≤ 8

/-- Does RATE_CHECK limit an attempt at this clock reading (41_handshake.md R141)? -/
abbrev Limited (d : Decoder) (nowMs : Word) : Prop :=
  d.attempted = true ∧ (nowMs - d.lastMs).toNat < 2000

/-- What `cnt` stays below in an FSM state: the ceiling, the hold, or 1 (that is, `cnt = 0`) (10_state.md R23). -/
def cntBound (p : Params) (st : BitVec 4) : Nat :=
  match fsmOf st with
  | some .idleWait => p.idleCeil
  | some .startPulse => p.startHold
  | some .ackLowWait => p.ackLowCeil
  | some .ackHighWait => p.ackHighCeil
  | some .bitSyncWait => p.syncCeil
  | some .bitHighWait => p.dataCeil
  | _ => 1

/-- One of the five bounded waits (41_handshake.md R142, R144, R145, 42_bit_capture.md R161, R162). -/
structure WaitRow where
  /-- The FSM code. -/
  code : BitVec 4
  /-- The level waited for. -/
  target : Bool
  /-- The ceiling. -/
  ceil : Nat
  /-- The code of the failure. -/
  fail : BitVec 4

/-- The five bounded waits of an instance. -/
def waitRows (p : Params) : List WaitRow :=
  [ ⟨2#4, true, p.idleCeil, 3#4⟩,
    ⟨4#4, false, p.ackLowCeil, 4#4⟩,
    ⟨5#4, true, p.ackHighCeil, 5#4⟩,
    ⟨6#4, false, p.syncCeil, 6#4⟩,
    ⟨7#4, true, p.dataCeil, 7#4⟩ ]

/-- The line levels of a slot whose sync succeeds at poll `a` and whose counted wait at poll `c`
(42_bit_capture.md R168). -/
def slotLevels (slot : Nat × Nat) : List Bool :=
  List.replicate (slot.1 - 1) true ++ [false] ++ List.replicate (slot.2 - 1) false ++ [true]

/-- The steps a list of slots occupies (42_bit_capture.md R168). -/
def slotSteps (slots : List (Nat × Nat)) : Nat := (slots.map fun slot => slot.1 + slot.2).sum

/-- Every slot's polls lie within the ceilings (42_bit_capture.md R168). -/
abbrev SlotsFit (p : Params) (slots : List (Nat × Nat)) : Prop :=
  ∀ slot, slot ∈ slots → (1 ≤ slot.1 ∧ slot.1 ≤ p.syncCeil) ∧ (1 ≤ slot.2 ∧ slot.2 ≤ p.dataCeil)

/-- The successful poll numbers of a handshake: idle, acknowledgment low, acknowledgment high
(41_handshake.md R146). -/
structure Polls where
  /-- The poll of IDLE_WAIT that sees the line high. -/
  idle : Nat
  /-- The poll of ACK_LOW_WAIT that sees the line low. -/
  ackLow : Nat
  /-- The poll of ACK_HIGH_WAIT that sees the line high. -/
  ackHigh : Nat
  deriving DecidableEq, Repr

/-- The polls lie within the ceilings (41_handshake.md R146). -/
abbrev PollsFit (p : Params) (h : Polls) : Prop :=
  (1 ≤ h.idle ∧ h.idle ≤ p.idleCeil) ∧ (1 ≤ h.ackLow ∧ h.ackLow ≤ p.ackLowCeil)
    ∧ (1 ≤ h.ackHigh ∧ h.ackHigh ≤ p.ackHighCeil)

/-- The step, counted from the step that accepts the attempt, of the first BIT_SYNC_WAIT poll
(41_handshake.md R146). -/
def handshakeSteps (p : Params) (h : Polls) : Nat := 2 + h.idle + p.startHold + h.ackLow + h.ackHigh

/-- The coming step accepts an attempt whose rate check passes in the step after it (41_handshake.md R141). -/
structure AttemptPasses (s : State) : Prop where
  ready : s.dec.st = 0#4
  starts : startsAttempt s = true
  inTime : ¬ Limited s.dec (s.presented 1).nowMs

/-- The line answers a handshake with these poll numbers (41_handshake.md R146). -/
structure LineAnswers (s : State) (h : Polls) : Prop where
  idle : LineIs s 2 (List.replicate (h.idle - 1) false ++ [true])
  ackLow : LineIs s (2 + h.idle + s.params.startHold) (List.replicate (h.ackLow - 1) true ++ [false])
  ackHigh : LineIs s (2 + h.idle + s.params.startHold + h.ackLow)
    (List.replicate (h.ackHigh - 1) false ++ [true])

/-- The invariant of the decoder's reachable states, for an instance `p`. -/
structure Decoder.Inv (p : Params) (d : Decoder) : Prop where
  /-- No reachable state holds an FSM code 10 to 15 (10_state.md R21). -/
  fsm : d.st.toNat ≤ 9
  /-- No reachable state holds a result code 9 to 15 (60_exceptions.md R220). -/
  result : d.result.toNat ≤ 8
  /-- `cnt` stays below the state's ceiling or hold, and is 0 elsewhere (10_state.md R23). -/
  cnt : d.cnt < cntBound p d.st
  /-- `bit_idx` is a slot index (10_state.md R20, R24). -/
  bitIdx : d.bitIdx.toNat ≤ 40
  /-- A frame being captured holds one bit per captured slot, so no bit is dropped (42_bit_capture.md R164). -/
  frame : d.st = 6#4 ∨ d.st = 7#4 → d.frame.toNat < 2 ^ d.bitIdx.toNat
  /-- A complete frame ends at slot 40 (10_state.md R24). -/
  complete : d.st = 8#4 ∨ d.st = 9#4 → d.bitIdx = 40#6
  /-- CHECKSUM_VERIFY sees the fields of the frame (43_framing_checksum.md R180). -/
  assembled : d.st = 9#4 →
    d.rawHum = frameHum d.frame ∧ d.rawTemp = frameTemp d.frame ∧ d.rawCk = frameCk d.frame
  /-- CALC_CK is the checksum of RAW (10_state.md R29, 43_framing_checksum.md R180). -/
  checksumOfRaw : d.calcCk = Sys2Proof.Machine.calcCk d.rawHum d.rawTemp
  /-- `hum[15] = 0` (10_state.md R27). -/
  hum : d.hum.getLsbD 15 = false
  /-- `temp != 0x8000` (10_state.md R27). -/
  temp : d.temp ≠ 0x8000#16
  /-- While a transaction is in progress `done` is 0 (10_state.md R28). -/
  busy : d.st ≠ 0#4 → d.done = false
  /-- A finished attempt has an outcome (60_exceptions.md R220: NONE is never written by `finish`). -/
  outcome : d.done = true → d.result ≠ 0#4
  /-- Past the rate check `last_ms` holds a timestamp (10_state.md R26). -/
  stamped : 2 ≤ d.st.toNat → d.attempted = true
  /-- Before the first passing attempt or RESET_CLOCK_REF nothing has happened (10_state.md R26). -/
  fresh : d.attempted = false → d.lastMs = 0#32 ∧ d.result = 0#4 ∧ d.valid = false
  /-- Before the first success the reading is the reset reading (44_host_projections.md R200). -/
  unread : d.valid = false → d.hum = 0#16 ∧ d.temp = 0#16
  /-- After OK the checksums agree and the reading is RAW's (40_command_interface.md R127, R125). -/
  afterOk : d.result = 1#4 → d.st ≠ 9#4 →
    d.calcCk = d.rawCk ∧ d.hum = humOf d.rawHum ∧ d.temp = tempOf d.rawTemp ∧ d.valid = true
  /-- After CHECKSUM they differ (40_command_interface.md R127). -/
  afterChecksum : d.result = 8#4 → d.st ≠ 9#4 → d.calcCk ≠ d.rawCk

/-- The machine's invariant: a legal instance whose decoder is in a reachable state. -/
structure State.Inv (s : State) : Prop where
  legal : s.params.legal = true
  dec : Decoder.Inv s.params s.dec

/-- A safe run of `n` steps: no fault and no refusal. -/
def SafeRun (n : Nat) (s : State) : Prop := ∃ t, runSteps n s = .next t

end Sys2Proof.Machine
end

