-- ==== Sys2Proof/Certificates/Slice0/Obligations.lean ====
section
/-! DEFINITION. The statements for the provers, each a proposition about the model, citing the rules of spec/ it
formalises. -/

open Sys2Proof Sys2Proof.Machine

/-! ## Encoding -/

/-- No bit of an encoding is dropped: decoding the word of a well-formed instruction gives the instruction back. -/
def Obligations.DecodeOfEncodeIsTheInstruction : Prop :=
  ∀ i : Instr, i.wf = true → decode (encode i) = i

/-- No bit of a word is dropped: encoding the instruction a word is gives the word back. It holds because the bits that
30_encoding.md calls ignored are operands of the instruction, which is the model's choice (log 18): R82 itself counts
only CMD and ADDR as operands. -/
def Obligations.EncodeOfDecodeIsTheWord : Prop := ∀ w : TxWord, encode (decode w) = w

/-- 30_encoding.md R83: every transaction word selects exactly one row of the opcode map, and the decoder answers that
row's instruction. -/
def Obligations.EveryWordSelectsExactlyItsRow : Prop :=
  ∀ w : TxWord, (opcodeMap.filter fun r => r.selects w).map (fun r => r.mnemonic) = [(decode w).mnemonic]

/-- Words written out from 30_encoding.md R83 and the examples of 95_test_vectors.md decode to their instructions. A
number wider than the 36 bits that section 1 of 30_encoding.md gives every instruction is no word; that the decoder
rejects it is the model's choice (log 16). -/
def Obligations.WrittenWordsDecode : Prop :=
  decodeTableWord 36 0x800000000 = some (.nop 0#30)
    ∧ decodeTableWord 36 0x800000001 = some (.attemptRead 0#30)
    ∧ decodeTableWord 36 0x80000FFFD = some (.attemptRead 0x3FFF#30)
    ∧ decodeTableWord 36 0x800000002 = some (.resetClockRef 0#30)
    ∧ decodeTableWord 36 0x800000003 = some (.cmdReserved 0#30)
    ∧ decodeTableWord 36 0x100000000 = some (.rdStatus 0#32)
    ∧ decodeTableWord 36 0x700000000 = some (.rdUnmapped 7#3 0#32)
    ∧ decodeTableWord 36 0xAFFFFFFFF = some (.wrIgnored23 2#3 0xFFFFFFFF#32)
    ∧ decodeTableWord 40 0x1800000000 = none

/-- Presenting a word, the model's choice of how a host transaction reaches the coming step (log 1): the word's bits
stand on the ports as 30_encoding.md section 1 lays them out (write strobe in bit 35, word index in bits 34:32, data in
bits 31:0) and the step decodes exactly that word; reset is held at 0; the line, the clock, every later step's inputs
and every other field of the machine are as they were. -/
def Obligations.PresentedWordIsFetched : Prop :=
  ∀ (s : State) (w : TxWord),
    ((s.withTransaction w).fetch = decode w ∧ (s.withTransaction w).inputs.tw = w)
      ∧ ((s.withTransaction w).inputs.regWe = w.getLsbD 35
          ∧ (s.withTransaction w).inputs.regAddr = w.extractLsb' 32 3
          ∧ (s.withTransaction w).inputs.regWdata = w.extractLsb' 0 32)
      ∧ (s.withTransaction w).inputs.rst = false
      ∧ ((s.withTransaction w).inputs.line = s.inputs.line
          ∧ (s.withTransaction w).inputs.nowMs = s.inputs.nowMs
          ∧ ∀ n, (s.withTransaction w).presented (n + 1) = s.presented (n + 1))
      ∧ ((s.withTransaction w).params = s.params ∧ (s.withTransaction w).dec = s.dec
          ∧ (s.withTransaction w).stepNo = s.stepNo ∧ (s.withTransaction w).seen = s.seen)

/-! ## The host transactions -/

/-- 40_command_interface.md R113: the CMD format with command code 0 is NOP, which writes no field, in any state,
whatever its ignored bits; the port shows CTRL, which reads 0. -/
def Obligations.NopWritesNothing : Prop :=
  ∀ (ign : BitVec 30) (s : State),
    decode (encodeCommand ign 0#2) = .nop ign
      ∧ exec (.nop ign) s = .next { s with seen := portsWith s.dec 0#32 }

/-- 40_command_interface.md section 2: ATTEMPT_READ in READY enters RATE_CHECK and clears `done` and `cmd_err`; every
other field, and the instance and the environment, are unchanged. -/
def Obligations.AttemptReadStartsInReady : Prop :=
  ∀ (ign : BitVec 30) (s : State), s.dec.st = 0#4 →
    exec (.attemptRead ign) s =
      .next { s with dec := { s.dec with st := 1#4, done := false, cmdErr := false },
                     seen := portsWith s.dec 0#32 }

/-- 40_command_interface.md section 2: RESET_CLOCK_REF in READY copies this step's `now_ms_i` into `last_ms`, sets
`attempted` and clears `cmd_err`; every other field is unchanged. -/
def Obligations.ResetClockRefRebasesInReady : Prop :=
  ∀ (ign : BitVec 30) (s : State), s.dec.st = 0#4 →
    exec (.resetClockRef ign) s =
      .next { s with dec := { s.dec with lastMs := s.inputs.nowMs, attempted := true, cmdErr := false },
                     seen := portsWith s.dec 0#32 }

/-- 40_command_interface.md R116: the CMD format with command code 3 is the reserved command, which sets `cmd_err`
and writes nothing else, in any state. -/
def Obligations.ReservedCommandSetsCmdErr : Prop :=
  ∀ (ign : BitVec 30) (s : State),
    decode (encodeCommand ign 3#2) = .cmdReserved ign
      ∧ exec (.cmdReserved ign) s =
          .next { s with dec := { s.dec with cmdErr := true }, seen := portsWith s.dec 0#32 }

/-- 40_command_interface.md R117: while busy, ATTEMPT_READ and RESET_CLOCK_REF do nothing but set `cmd_err`, and the
step goes on exactly as with a NOP in their place. -/
def Obligations.CommandWhileBusyIsRejected : Prop :=
  ∀ (i : Instr) (ign : BitVec 30) (s : State), i = .attemptRead ign ∨ i = .resetClockRef ign → s.dec.st ≠ 0#4 →
    exec i s = .next { s with dec := { s.dec with cmdErr := true }, seen := portsWith s.dec 0#32 }
      ∧ step (s.withTransaction (encode i)) =
          mapNext (fun t => { t with dec := { t.dec with cmdErr := true } })
            (step (s.withTransaction (encode (.nop 0#30))))

/-- 40_command_interface.md R118: the WRI format with word 1 to 7 is an ignored write, which writes no field, in any
state; the port shows the word written to, as for a read. -/
def Obligations.IgnoredWritesWriteNothing : Prop :=
  ∀ (idx : WordIdx) (data : Word) (s : State),
    decode (encodeIgnoredWrite 1#3 data) = .wrIgnored1 data
      ∧ (idx = 2#3 ∨ idx = 3#3 → decode (encodeIgnoredWrite idx data) = .wrIgnored23 idx data)
      ∧ (4 ≤ idx.toNat → decode (encodeIgnoredWrite idx data) = .wrIgnored47 idx data)
      ∧ exec (.wrIgnored1 data) s = .next { s with seen := portsWith s.dec (regRead s.dec 1#3) }
      ∧ exec (.wrIgnored23 idx data) s = .next { s with seen := portsWith s.dec (regRead s.dec idx) }
      ∧ exec (.wrIgnored47 idx data) s = .next { s with seen := portsWith s.dec (regRead s.dec idx) }

/-- 40_command_interface.md R123 and R129: the RD format with word 0, 6 or 7 reads CTRL or an unmapped word; each reads
0 in every state, and the read writes no field. -/
def Obligations.CtrlAndUnmappedReadZero : Prop :=
  ∀ (idx : WordIdx) (ign : BitVec 32) (s : State),
    decode (encodeRead 0#3 ign) = .rdCtrl ign
      ∧ exec (.rdCtrl ign) s = .next { s with seen := portsWith s.dec 0#32 }
      ∧ (idx = 6#3 ∨ idx = 7#3 →
          decode (encodeRead idx ign) = .rdUnmapped idx ign
            ∧ exec (.rdUnmapped idx ign) s = .next { s with seen := portsWith s.dec 0#32 })

/-- 40_command_interface.md section 4: each of RD_STATUS, RD_READING, RD_RAW, RD_CHECK and RD_LAST_MS puts its word on
the read port and writes no field. -/
def Obligations.RegisterReadsShowTheirWord : Prop :=
  ∀ (ign : BitVec 32) (s : State),
    exec (.rdStatus ign) s =
        .next { s with seen := portsWith s.dec (0#10 ++ s.dec.bitIdx ++ s.dec.st ++ s.dec.result ++ 0#3
            ++ BitVec.ofBool s.dec.attempted ++ BitVec.ofBool s.dec.cmdErr ++ BitVec.ofBool s.dec.valid
            ++ BitVec.ofBool s.dec.done ++ BitVec.ofBool (s.dec.st != 0#4)) }
      ∧ exec (.rdReading ign) s = .next { s with seen := portsWith s.dec (s.dec.temp ++ s.dec.hum) }
      ∧ exec (.rdRaw ign) s = .next { s with seen := portsWith s.dec (s.dec.rawTemp ++ s.dec.rawHum) }
      ∧ exec (.rdCheck ign) s = .next { s with seen := portsWith s.dec (0#16 ++ s.dec.calcCk ++ s.dec.rawCk) }
      ∧ exec (.rdLastMs ign) s = .next { s with seen := portsWith s.dec s.dec.lastMs }

/-! ## The register window -/

/-- 10_state.md R31: every field of STATUS sits at its bits, and the bits of no field read 0; STATUS reads 0 after
reset, and no write of it writes a field. -/
def Obligations.StatusFieldsSitAtTheirBits : Prop :=
  regRead Decoder.resetState 1#3 = 0#32
    ∧ (∀ (data : Word) (s : State), nextDec (exec (.wrIgnored1 data) s) = some s.dec)
    ∧ ∀ d : Decoder,
        (regRead d 1#3).getLsbD 0 = decide (d.st ≠ 0#4)
          ∧ (regRead d 1#3).getLsbD 1 = d.done
          ∧ (regRead d 1#3).getLsbD 2 = d.valid
          ∧ (regRead d 1#3).getLsbD 3 = d.cmdErr
          ∧ (regRead d 1#3).getLsbD 4 = d.attempted
          ∧ (regRead d 1#3).extractLsb' 5 3 = 0#3
          ∧ (regRead d 1#3).extractLsb' 8 4 = d.result
          ∧ (regRead d 1#3).extractLsb' 12 4 = d.st
          ∧ (regRead d 1#3).extractLsb' 16 6 = d.bitIdx
          ∧ (regRead d 1#3).extractLsb' 22 10 = 0#10

/-- 10_state.md section 6: the fields of READING, RAW, CHECK and LAST_MS sit at their bits; CTRL and words 6 and 7
read 0. -/
def Obligations.ReadingRawCheckFieldsSitAtTheirBits : Prop :=
  ∀ d : Decoder,
    ((regRead d 2#3).extractLsb' 0 16 = d.hum ∧ (regRead d 2#3).extractLsb' 16 16 = d.temp)
      ∧ ((regRead d 3#3).extractLsb' 0 16 = d.rawHum ∧ (regRead d 3#3).extractLsb' 16 16 = d.rawTemp)
      ∧ ((regRead d 4#3).extractLsb' 0 8 = d.rawCk ∧ (regRead d 4#3).extractLsb' 8 8 = d.calcCk
          ∧ (regRead d 4#3).extractLsb' 16 16 = 0#16)
      ∧ regRead d 5#3 = d.lastMs
      ∧ regRead d 0#3 = 0#32 ∧ regRead d 6#3 = 0#32 ∧ regRead d 7#3 = 0#32

/-! ## The step -/

/-- 40_command_interface.md section 1: in a legal instance without reset, a step runs the decoded host transaction and
then the FSM dispatch, which reads the state before the step; then the environment's next step comes. Model's choices:
the split of a step into `exec` and the dispatch (log 8), that a fault or a refusal of either stops the whole step
(logs 5 and 6), and how the environment's next step comes (log 1). -/
def Obligations.StepRunsTheDecodedInstruction : Prop :=
  ∀ (s : State) (i : Instr), s.params.legal = true → s.inputs.rst = false → decode s.inputs.tw = i →
    i.wf = true ∧
    step s =
      match exec i s with
      | .next t =>
        (match dispatch s.params s.dec s.inputs t.dec with
         | .ok d => .next { t with dec := d, script := t.script.tail, stepNo := t.stepNo + 1 }
         | .error f => .fault f)
      | .fault f => .fault f
      | .refused r => .refused r

/-- 40_command_interface.md R111: the host transaction and the dispatch never write the same field, and so their order
does not matter. While busy the transaction writes only `cmd_err`, in READY only the five fields of the accepted
commands; the dispatch writes nothing in READY and never writes `cmd_err`. -/
def Obligations.HostWriteAndDispatchWriteApart : Prop :=
  ∀ (i : Instr) (s t : State), exec i s = .next t →
    (s.dec.st ≠ 0#4 → t.dec = { s.dec with cmdErr := t.dec.cmdErr })
      ∧ (s.dec.st = 0#4 →
          t.dec = { s.dec with st := t.dec.st, done := t.dec.done, cmdErr := t.dec.cmdErr,
                               lastMs := t.dec.lastMs, attempted := t.dec.attempted })
      ∧ (∀ d, dispatch s.params s.dec s.inputs s.dec = .ok d →
          (s.dec.st = 0#4 → d = s.dec) ∧ d.cmdErr = s.dec.cmdErr
            ∧ dispatch s.params s.dec s.inputs t.dec =
                .ok (if s.dec.st = 0#4 then t.dec else { d with cmdErr := t.dec.cmdErr }))

/-- 70_reset_and_hazards.md R250: a step with `rst_i = 1` leaves RESET_STATE whatever the state (also one that no run
reaches) and the other inputs are; after it every register reads 0 and the line, `busy_o` and `done_o` are 0. The ports
of the reset step itself are still those of the state before it. -/
def Obligations.ResetOverridesEverything : Prop :=
  ∀ s : State, s.params.legal = true → s.inputs.rst = true →
    ∃ d : Decoder, step s = .next (s.after d)
      ∧ d = { st := 0#4, cnt := 0, bitIdx := 0#6, frame := 0#41, lastMs := 0#32, attempted := false, hum := 0#16,
              temp := 0#16, valid := false, result := 0#4, done := false, cmdErr := false, rawHum := 0#16,
              rawTemp := 0#16, rawCk := 0#8, calcCk := 0#8 }
      ∧ ∀ idx : WordIdx, outputs d idx = { lineDriveLow := false, regRdata := 0#32, busy := false, done := false }

/-- 70_reset_and_hazards.md section 1: the state after reset has every field of the decoder at 0 and so every register
word reads 0, the line is released, `busy_o` and `done_o` are 0. The instance is legal (the model's own field, log 2). -/
def Obligations.ResetStateReadsZero : Prop :=
  State.reset.dec =
      { st := 0#4, cnt := 0, bitIdx := 0#6, frame := 0#41, lastMs := 0#32, attempted := false, hum := 0#16,
        temp := 0#16, valid := false, result := 0#4, done := false, cmdErr := false, rawHum := 0#16,
        rawTemp := 0#16, rawCk := 0#8, calcCk := 0#8 }
    ∧ (∀ idx : WordIdx, regRead State.reset.dec idx = 0#32)
    ∧ (∀ idx : WordIdx, outputs State.reset.dec idx =
        { lineDriveLow := false, regRdata := 0#32, busy := false, done := false })
    ∧ State.reset.params.legal = true

/-- 00_scope.md section 5, 40_command_interface.md section 3 and 93_implementation_defined.md I3, I5, I6: the machine
stops in exactly three cases, the model's choice (logs 5, 6 and 7). A parameter record with a ceiling or the hold at 0 is refused, also under reset; in a
legal instance without reset an FSM code 10 to 15 faults, and so does a result code 9 to 15; in every other case the
step answers a next state. -/
def Obligations.MachineStopsOnlyAsListed : Prop :=
  ∀ s : State,
    (step s = .refused .illegalParams ↔
        s.params.idleCeil = 0 ∨ s.params.startHold = 0 ∨ s.params.ackLowCeil = 0 ∨ s.params.ackHighCeil = 0
          ∨ s.params.syncCeil = 0 ∨ s.params.dataCeil = 0)
      ∧ (s.params.legal = true → s.inputs.rst = false →
          (10 ≤ s.dec.st.toNat → step s = .fault .unreachableFsmCode)
            ∧ (s.dec.st.toNat ≤ 9 → 9 ≤ s.dec.result.toNat → step s = .fault .unreachableResultCode))
      ∧ (s.params.legal = true →
          s.inputs.rst = true ∨ (s.dec.st.toNat ≤ 9 ∧ s.dec.result.toNat ≤ 8) → ∃ t, step s = .next t)

/-- 10_state.md section 7: the ports seen in any step, a reset step too, are functions of the state before it, and the
read port also of the address input. That the ports are recorded (log 4), that the instance never changes (log 2) and
that the environment moves on by one step (logs 1 and 3) are the model's choices. -/
def Obligations.OutputsAreMooreOutputs : Prop :=
  ∀ s t : State, step s = .next t →
    t.seen.lineDriveLow = decide (s.dec.st = 3#4)
      ∧ t.seen.busy = decide (s.dec.st ≠ 0#4)
      ∧ t.seen.done = s.dec.done
      ∧ t.seen.regRdata = regRead s.dec s.inputs.regAddr
      ∧ t.params = s.params ∧ t.script = s.script.tail ∧ t.stepNo = s.stepNo + 1

/-- 20_memory.md section 3: reads have no side effect. Presenting any register read, NOP or ignored write leaves the
decoder the same as presenting any other, whatever the ignored bits. -/
def Obligations.ReadsHaveNoSideEffects : Prop :=
  ∀ (i j : Instr) (s : State), i.wf = true → j.wf = true → writesNothing i = true → writesNothing j = true →
    nextDec (step (s.withTransaction (encode i))) = nextDec (step (s.withTransaction (encode j)))

/-! ## The FSM states -/

/-- 40_command_interface.md R122: in READY the decoder does nothing of its own; only the host transaction can change
its state, and only an accepted command or the reserved one does. -/
def Obligations.ReadyDoesNothingOfItsOwn : Prop :=
  ∀ s : State, s.Runs 0#4 →
    (writesNothing s.fetch = true → step s = .next (s.after s.dec))
      ∧ (startsAttempt s = true →
          step s = .next (s.after { s.dec with st := 1#4, done := false, cmdErr := false }))
      ∧ (rebasesClock s = true →
          step s = .next (s.after
            { s.dec with lastMs := s.inputs.nowMs, attempted := true, cmdErr := false }))
      ∧ (∀ ign, s.fetch = .cmdReserved ign → step s = .next (s.after { s.dec with cmdErr := true }))

/-- 41_handshake.md R141: RATE_CHECK lasts one step; it ends the attempt with RATE_LIMITED and neither moves `last_ms`
nor sets `attempted` where fewer than 2000 ms have elapsed since a recorded attempt, modulo 2^32; else it records the
attempt and goes to IDLE_WAIT. -/
def Obligations.RateCheckLimitsOrRecords : Prop :=
  ∀ s : State, s.Runs 1#4 →
    (Limited s.dec s.inputs.nowMs →
        step s = .next (s.after
          { s.dec with st := 0#4, result := 2#4, done := true, cnt := 0, cmdErr := s.errAfter }))
      ∧ (¬ Limited s.dec s.inputs.nowMs →
        step s = .next (s.after
          { s.dec with st := 2#4, lastMs := s.inputs.nowMs, attempted := true, cnt := 0, cmdErr := s.errAfter }))

/-- 41_handshake.md R142: one poll of IDLE_WAIT, for high. -/
def Obligations.IdleWaitPolls : Prop :=
  ∀ s : State, s.Runs 2#4 →
    (s.inputs.line = true →
        step s = .next (s.after { s.dec with st := 3#4, cnt := 0, cmdErr := s.errAfter }))
      ∧ (s.inputs.line = false → s.params.idleCeil ≤ s.dec.cnt + 1 →
        step s = .next (s.after
          { s.dec with st := 0#4, result := 3#4, done := true, cnt := 0, cmdErr := s.errAfter }))
      ∧ (s.inputs.line = false → s.dec.cnt + 1 < s.params.idleCeil →
        step s = .next (s.after { s.dec with cnt := s.dec.cnt + 1, cmdErr := s.errAfter }))

/-- 41_handshake.md section 2: one step of START_PULSE, whatever the line. -/
def Obligations.StartPulseHolds : Prop :=
  ∀ s : State, s.Runs 3#4 →
    (s.params.startHold ≤ s.dec.cnt + 1 →
        step s = .next (s.after { s.dec with st := 4#4, cnt := 0, cmdErr := s.errAfter }))
      ∧ (s.dec.cnt + 1 < s.params.startHold →
        step s = .next (s.after { s.dec with cnt := s.dec.cnt + 1, cmdErr := s.errAfter }))

/-- 41_handshake.md R144: one poll of ACK_LOW_WAIT, for low. -/
def Obligations.AckLowWaitPolls : Prop :=
  ∀ s : State, s.Runs 4#4 →
    (s.inputs.line = false →
        step s = .next (s.after { s.dec with st := 5#4, cnt := 0, cmdErr := s.errAfter }))
      ∧ (s.inputs.line = true → s.params.ackLowCeil ≤ s.dec.cnt + 1 →
        step s = .next (s.after
          { s.dec with st := 0#4, result := 4#4, done := true, cnt := 0, cmdErr := s.errAfter }))
      ∧ (s.inputs.line = true → s.dec.cnt + 1 < s.params.ackLowCeil →
        step s = .next (s.after { s.dec with cnt := s.dec.cnt + 1, cmdErr := s.errAfter }))

/-- 41_handshake.md R145: one poll of ACK_HIGH_WAIT, for high; success starts the capture at slot 0 with an empty
frame. -/
def Obligations.AckHighWaitPolls : Prop :=
  ∀ s : State, s.Runs 5#4 →
    (s.inputs.line = true →
        step s = .next (s.after
          { s.dec with st := 6#4, cnt := 0, bitIdx := 0#6, frame := 0#41, cmdErr := s.errAfter }))
      ∧ (s.inputs.line = false → s.params.ackHighCeil ≤ s.dec.cnt + 1 →
        step s = .next (s.after
          { s.dec with st := 0#4, result := 5#4, done := true, cnt := 0, cmdErr := s.errAfter }))
      ∧ (s.inputs.line = false → s.dec.cnt + 1 < s.params.ackHighCeil →
        step s = .next (s.after { s.dec with cnt := s.dec.cnt + 1, cmdErr := s.errAfter }))

/-- 42_bit_capture.md R161: one poll of BIT_SYNC_WAIT, for low; `bit_idx` is not changed. -/
def Obligations.BitSyncWaitPolls : Prop :=
  ∀ s : State, s.Runs 6#4 →
    (s.inputs.line = false →
        step s = .next (s.after { s.dec with st := 7#4, cnt := 0, cmdErr := s.errAfter }))
      ∧ (s.inputs.line = true → s.params.syncCeil ≤ s.dec.cnt + 1 →
        step s = .next (s.after
          { s.dec with st := 0#4, result := 6#4, done := true, cnt := 0, cmdErr := s.errAfter }))
      ∧ (s.inputs.line = true → s.dec.cnt + 1 < s.params.syncCeil →
        step s = .next (s.after { s.dec with cnt := s.dec.cnt + 1, cmdErr := s.errAfter }))

/-- 42_bit_capture.md R162: one poll of BIT_HIGH_WAIT, for high; on success at poll `c` the bit `c > P_BIT_THRESHOLD`
enters the frame at bit 0 and bit 40 drops out, and the last slot goes to ASSEMBLE. -/
def Obligations.BitHighWaitPolls : Prop :=
  ∀ s : State, s.Runs 7#4 →
    (∀ f : Frame,
        f.toNat = (2 * s.dec.frame.toNat + if s.params.bitThreshold < s.dec.cnt + 1 then 1 else 0) % 2 ^ 41 →
        s.inputs.line = true →
        step s = .next (s.after
          (if s.dec.bitIdx = 40#6 then
            { s.dec with st := 8#4, cnt := 0, frame := f, cmdErr := s.errAfter }
           else
            { s.dec with st := 6#4, cnt := 0, frame := f, bitIdx := s.dec.bitIdx + 1#6, cmdErr := s.errAfter })))
      ∧ (s.inputs.line = false → s.params.dataCeil ≤ s.dec.cnt + 1 →
        step s = .next (s.after
          { s.dec with st := 0#4, result := 7#4, done := true, cnt := 0, cmdErr := s.errAfter }))
      ∧ (s.inputs.line = false → s.dec.cnt + 1 < s.params.dataCeil →
        step s = .next (s.after { s.dec with cnt := s.dec.cnt + 1, cmdErr := s.errAfter }))

/-- 42_bit_capture.md R163: a sample at or below the threshold decodes to 0, a sample above it to 1. With a threshold
of 0 every sample is a 1; with one at or above the data ceiling every sample is a 0, and a frame of zeros decodes to
humidity 0 and temperature 0. -/
def Obligations.ThresholdSplitsSamples : Prop :=
  ∀ (p : Params) (c : Nat),
    (c ≤ p.bitThreshold → bitOf p c = false) ∧ (p.bitThreshold < c → bitOf p c = true)
      ∧ (p.bitThreshold = 0 → 1 ≤ c → bitOf p c = true)
      ∧ (p.dataCeil ≤ p.bitThreshold → c ≤ p.dataCeil → bitOf p c = false)
      ∧ decodeFrame 0#41 = some (0#16, 0#16)

/-- 43_framing_checksum.md R180: ASSEMBLE lasts one step and writes the four diagnostic registers from the frame;
slot 0 (bit 40) is read by nothing. -/
def Obligations.AssembleExtractsTheFields : Prop :=
  ∀ s : State, s.Runs 8#4 →
    step s = .next (s.after
      { s.dec with
        st := 9#4
        rawHum := s.dec.frame.extractLsb' 24 16
        rawTemp := s.dec.frame.extractLsb' 8 16
        rawCk := s.dec.frame.extractLsb' 0 8
        calcCk := calcCk (s.dec.frame.extractLsb' 24 16) (s.dec.frame.extractLsb' 8 16)
        cmdErr := s.errAfter })

/-- 43_framing_checksum.md R185, and the mismatch: CHECKSUM_VERIFY lasts one step; equal checksums cache the reconstructed
reading, set `valid` and end with OK; different ones end with CHECKSUM and leave the reading. -/
def Obligations.ChecksumVerifyAcceptsOrRejects : Prop :=
  ∀ s : State, s.Runs 9#4 →
    (s.dec.calcCk = s.dec.rawCk →
        step s = .next (s.after
          { s.dec with st := 0#4, result := 1#4, done := true, cnt := 0, hum := humOf s.dec.rawHum,
                       temp := tempOf s.dec.rawTemp, valid := true, cmdErr := s.errAfter }))
      ∧ (s.dec.calcCk ≠ s.dec.rawCk →
        step s = .next (s.after
          { s.dec with st := 0#4, result := 8#4, done := true, cnt := 0, cmdErr := s.errAfter }))

/-! ## Framing -/

/-- 43_framing_checksum.md R181: the checksum is the sum of the four wire bytes modulo 256. -/
def Obligations.ChecksumIsByteSumModulo256 : Prop :=
  ∀ rh rt : Half,
    (calcCk rh rt).toNat =
      (rh.toNat / 256 + rh.toNat % 256 + rt.toNat / 256 + rt.toNat % 256) % 256

/-- 43_framing_checksum.md R183 and R184: the humidity is the raw field without its top bit; the temperature is the
15-bit magnitude, negated where the sign bit is set, within -32767 to 32767, and 0x8000 gives 0. -/
def Obligations.ReconstructionMasksAndSigns : Prop :=
  ∀ rh rt : Half,
    (humOf rh).toNat = rh.toNat % 0x8000
      ∧ ((tempOf rt).toInt = if rt.toNat < 0x8000 then (rt.toNat : Int) else -((rt.toNat : Int) - 0x8000))
      ∧ -32767 ≤ (tempOf rt).toInt ∧ (tempOf rt).toInt ≤ 32767 ∧ tempOf 0x8000#16 = 0#16

/-- 30_encoding.md section 5 and 43_framing_checksum.md: every reading survives the wire. For every humidity in
0..32767, temperature in -32767..32767 and spurious bit, the frame built from them decodes to them. -/
def Obligations.ReadingSurvivesTheWire : Prop :=
  ∀ (b0 : Bool) (h : Nat) (t : Int), h ≤ 32767 → -32767 ≤ t → t ≤ 32767 →
    decodeFrame (encodeFrame b0 h t) = some (BitVec.ofNat 16 h, BitVec.ofInt 16 t)

/-- 43_framing_checksum.md, the checksum's corner cases: one flipped bit anywhere in slots 1 to 40 of a frame with a correct checksum is
always detected; a flipped slot 0 never matters. -/
def Obligations.SingleBitErrorsAreDetected : Prop :=
  ∀ (f : Frame) (j : Nat), j ≤ 40 →
    (j < 40 → decodeFrame f ≠ none → decodeFrame (f ^^^ (1#41 <<< j)) = none)
      ∧ (j = 40 → decodeFrame (f ^^^ (1#41 <<< j)) = decodeFrame f)

/-- 43_framing_checksum.md, the decode of a whole frame: from ASSEMBLE, two steps without reset end the attempt with `DecodeFrame(frame)`:
OK and the new reading, or CHECKSUM and the old one. -/
def Obligations.CompleteFrameEndsAsDecodeFrame : Prop :=
  ∀ s : State, s.Runs 8#4 → (s.presented 1).rst = false →
    ∃ t, runSteps 2 s = .next t ∧ t.dec.st = 0#4 ∧ t.dec.done = true
      ∧ (∀ h temp, decodeFrame s.dec.frame = some (h, temp) →
          t.dec.result = 1#4 ∧ t.dec.hum = h ∧ t.dec.temp = temp ∧ t.dec.valid = true)
      ∧ (decodeFrame s.dec.frame = none →
          t.dec.result = 8#4 ∧ t.dec.hum = s.dec.hum ∧ t.dec.temp = s.dec.temp ∧ t.dec.valid = s.dec.valid)

/-! ## Who writes what -/

/-- 10_state.md R26: `last_ms` and `attempted` are written by a passing RATE_CHECK and an accepted RESET_CLOCK_REF,
each copying `now_ms_i` and setting `attempted`, and by nothing else but reset. -/
def Obligations.TimestampHasTwoWriters : Prop :=
  ∀ s t : State, step s = .next t → s.inputs.rst = false →
    (t.dec.lastMs, t.dec.attempted) =
      if (s.dec.st = 1#4 ∧ ¬ Limited s.dec s.inputs.nowMs) ∨ (s.dec.st = 0#4 ∧ rebasesClock s = true)
      then (s.inputs.nowMs, true) else (s.dec.lastMs, s.dec.attempted)

/-- 10_state.md R28: each flag is set and cleared as its row says, and by nothing else but reset. An attempt finishes
in the step that leaves a busy state for READY, and `result` then takes the code of that state. -/
def Obligations.FlagsAreSetAndClearedAsListed : Prop :=
  ∀ s t : State, step s = .next t → s.inputs.rst = false →
    (t.dec.done =
        if s.dec.st = 0#4 ∧ startsAttempt s = true then false
        else if s.dec.st ≠ 0#4 ∧ t.dec.st = 0#4 then true else s.dec.done)
      ∧ (t.dec.cmdErr =
        if s.dec.st = 0#4 ∧ (startsAttempt s = true ∨ rebasesClock s = true) then false
        else if rejectedWhileBusy s.fetch = true then true else s.dec.cmdErr)
      ∧ (t.dec.result =
        if s.dec.st ≠ 0#4 ∧ t.dec.st = 0#4 then
          (if s.dec.st = 1#4 then 2#4 else if s.dec.st = 2#4 then 3#4 else if s.dec.st = 4#4 then 4#4
           else if s.dec.st = 5#4 then 5#4 else if s.dec.st = 6#4 then 6#4 else if s.dec.st = 7#4 then 7#4
           else if s.dec.calcCk = s.dec.rawCk then 1#4 else 8#4)
        else s.dec.result)
      ∧ (t.dec.valid = (s.dec.valid || decide (s.dec.st = 9#4 ∧ s.dec.calcCk = s.dec.rawCk)))
      ∧ (t.dec.attempted =
        (s.dec.attempted || decide (s.dec.st = 1#4 ∧ ¬ Limited s.dec s.inputs.nowMs)
          || decide (s.dec.st = 0#4 ∧ rebasesClock s = true)))

/-- 10_state.md R24 and R29: `bit_idx` is cleared by a successful ACK_HIGH_WAIT, incremented by a successful
BIT_HIGH_WAIT at an index other than 40, and written by nothing else but reset; the diagnostic registers are written by
ASSEMBLE only. R24 speaks of indexes below 40; that an index of 41 to 63, which no run reaches, is incremented modulo
64 is the model's choice (log 13). -/
def Obligations.SlotIndexAndDiagnosticsHaveTheirWriters : Prop :=
  ∀ s t : State, step s = .next t → s.inputs.rst = false →
    (t.dec.bitIdx =
        if s.dec.st = 5#4 ∧ s.inputs.line = true then 0#6
        else if s.dec.st = 7#4 ∧ s.inputs.line = true ∧ s.dec.bitIdx ≠ 40#6 then s.dec.bitIdx + 1#6
        else s.dec.bitIdx)
      ∧ (s.dec.st ≠ 8#4 →
        t.dec.rawHum = s.dec.rawHum ∧ t.dec.rawTemp = s.dec.rawTemp ∧ t.dec.rawCk = s.dec.rawCk
          ∧ t.dec.calcCk = s.dec.calcCk)

/-- 43_framing_checksum.md R188: the reading and `valid` are written by an accepting CHECKSUM_VERIFY and by reset, and
by no other step; so an attempt that finishes with a result other than OK leaves them exactly as they were when it was
accepted, however long it ran. -/
def Obligations.FailedAttemptsKeepTheReading : Prop :=
  (∀ s t : State, step s = .next t → s.inputs.rst = false →
      ¬ (s.dec.st = 9#4 ∧ s.dec.calcCk = s.dec.rawCk) →
      t.dec.hum = s.dec.hum ∧ t.dec.temp = s.dec.temp ∧ t.dec.valid = s.dec.valid)
    ∧ ∀ (s t : State) (n : Nat), s.dec.st = 0#4 → NoReset s n → runSteps n s = .next t →
      (∀ m u, 0 < m → m < n → runSteps m s = .next u → u.dec.st ≠ 0#4) →
      t.dec.st = 0#4 → t.dec.result ≠ 1#4 →
      t.dec.hum = s.dec.hum ∧ t.dec.temp = s.dec.temp ∧ t.dec.valid = s.dec.valid
        ∧ regRead t.dec 2#3 = regRead s.dec 2#3

/-- 60_exceptions.md R222: a step that ends an attempt writes `st`, `result`, `done` and `cnt`, the accepting one also
the reading and `valid`, and no other field but `cmd_err` (a command rejected in that same step). -/
def Obligations.FinishWritesFourFields : Prop :=
  ∀ s t : State, step s = .next t → s.inputs.rst = false → s.dec.st ≠ 0#4 → t.dec.st = 0#4 →
    t.dec =
        { s.dec with st := 0#4, result := t.dec.result, done := true, cnt := 0, cmdErr := s.errAfter,
                     hum := t.dec.hum, temp := t.dec.temp, valid := t.dec.valid }
      ∧ (t.dec.result ≠ 1#4 →
          t.dec.hum = s.dec.hum ∧ t.dec.temp = s.dec.temp ∧ t.dec.valid = s.dec.valid)
      ∧ s.dec.st ≠ 3#4

/-- 60_exceptions.md R225: the states of an attempt run in a fixed order, and each can raise only its own failure, so
the code names the gate. -/
def Obligations.EachStateRaisesItsOwnCode : Prop :=
  ∀ s t : State, step s = .next t → s.inputs.rst = false → s.dec.st ≠ 0#4 →
    (t.dec.st = 0#4 → (s.dec.st, t.dec.result) ∈
      [(1#4, 2#4), (2#4, 3#4), (4#4, 4#4), (5#4, 5#4), (6#4, 6#4), (7#4, 7#4), (9#4, 1#4), (9#4, 8#4)])
      ∧ (t.dec.st ≠ 0#4 → t.dec.st ≠ s.dec.st → (s.dec.st, t.dec.st) ∈
      [(1#4, 2#4), (2#4, 3#4), (3#4, 4#4), (4#4, 5#4), (5#4, 6#4), (6#4, 7#4), (7#4, 6#4), (7#4, 8#4),
        (8#4, 9#4)])

/-- 10_state.md R38: a state that is not one of the five wait states does not sample the line, and a step that is
neither RATE_CHECK nor an accepted RESET_CLOCK_REF does not read the millisecond clock: the next decoder is the same
whatever they are. -/
def Obligations.LineAndClockAreReadOnlyWhereStated : Prop :=
  ∀ (s : State) (now : Word) (line : Bool),
    (samplesLine s.dec.st = false →
      nextDec (step { s with script := { s.presented 0 with line := line } :: s.script.tail })
        = nextDec (step s))
      ∧ (s.dec.st ≠ 1#4 → ¬ (s.dec.st = 0#4 ∧ rebasesClock s = true) →
        nextDec (step { s with script := { s.presented 0 with nowMs := now } :: s.script.tail })
          = nextDec (step s))

/-! ## Invariant -/

/-- Every step keeps the invariant of the reachable states, from every state that has it. -/
def Obligations.EveryStepKeepsTheInvariant : Prop :=
  ∀ s t : State, s.Inv → step s = .next t → t.Inv

/-- The state after reset has the invariant; that its instance is legal is the model's choice (log 2). -/
def Obligations.ResetStateHasTheInvariant : Prop := State.reset.Inv

/-- From a state of the invariant no run ever stops: no fault and no refusal, whatever the environment does. -/
def Obligations.ReachableRunsNeverStop : Prop := ∀ (s : State) (n : Nat), s.Inv → SafeRun n s

/-! ## Waits, attempts and whole reads -/

/-- 41_handshake.md section 1: a bounded wait, entered with `cnt = 0`, succeeds at poll `c` exactly when polls 1 to
`c - 1` saw the other level and poll `c` the target, in its `c`-th step, and fails with its own code in its `C`-th step
when all `C` polls saw the other level; until then it stays, counting polls. -/
def Obligations.BoundedWaitsSucceedOrFail : Prop :=
  ∀ (s : State) (w : WaitRow), w ∈ waitRows s.params → s.Runs w.code → s.dec.cnt = 0 →
    (∀ c, 1 ≤ c → c ≤ w.ceil → NoReset s c →
        LineIs s 0 (List.replicate (c - 1) (!w.target) ++ [w.target]) →
        (∃ t, runSteps c s = .next t ∧ t.dec.cnt = 0 ∧ t.dec.st ≠ w.code ∧ t.dec.st ≠ 0#4)
          ∧ ∀ m, m < c → ∃ u, runSteps m s = .next u ∧ u.dec.st = w.code ∧ u.dec.cnt = m)
      ∧ (NoReset s w.ceil → LineIs s 0 (List.replicate w.ceil (!w.target)) →
        (∃ t, runSteps w.ceil s = .next t ∧ t.dec.cnt = 0 ∧ t.dec.st = 0#4 ∧ t.dec.done = true
            ∧ t.dec.result = w.fail)
          ∧ ∀ m, m < w.ceil → ∃ u, runSteps m s = .next u ∧ u.dec.st = w.code ∧ u.dec.cnt = m)

/-- 41_handshake.md R146: an accepted attempt whose rate check passes and whose line answers with polls `a`, `b`, `d`
makes its first BIT_SYNC_WAIT poll `2 + a + P_START_HOLD + b + d` steps after the accepting step, at slot 0 with an
empty frame and `last_ms` recorded; on the way each handshake state occupies its steps, the line is driven low exactly
in the hold steps, and the decoder is busy with `done` 0. -/
def Obligations.HandshakeTakesItsPolls : Prop :=
  ∀ (s : State) (h : Polls), s.Inv → AttemptPasses s → PollsFit s.params h → LineAnswers s h →
    NoReset s (handshakeSteps s.params h) →
    (∃ t, runSteps (handshakeSteps s.params h) s = .next t ∧ t.dec.st = 6#4 ∧ t.dec.cnt = 0
        ∧ t.dec.bitIdx = 0#6 ∧ t.dec.frame = 0#41 ∧ t.dec.lastMs = (s.presented 1).nowMs
        ∧ t.dec.attempted = true)
      ∧ ∀ m, m ≤ handshakeSteps s.params h → ∃ u, runSteps m s = .next u
          ∧ u.dec.st =
              (if m = 0 then 0#4 else if m = 1 then 1#4 else if m < 2 + h.idle then 2#4
               else if m < 2 + h.idle + s.params.startHold then 3#4
               else if m < 2 + h.idle + s.params.startHold + h.ackLow then 4#4
               else if m < handshakeSteps s.params h then 5#4 else 6#4)
          ∧ (lineDriveLow u.dec = true ↔ 2 + h.idle ≤ m ∧ m < 2 + h.idle + s.params.startHold)
          ∧ (0 < m → u.dec.st ≠ 0#4 ∧ u.dec.done = false)

/-- 41_handshake.md R147: the code of a failed handshake names the first gate that failed. A rate-limited attempt
leaves the bus untouched: its outcome needs nothing of the line, and the line is released in each of its steps and
after it. -/
def Obligations.HandshakeFailureNamesTheGate : Prop :=
  ∀ (s : State) (h : Polls), s.Inv → s.dec.st = 0#4 → startsAttempt s = true →
    PollsFit s.params h → NoReset s (s.params.maxLatency + 1) →
    (Limited s.dec (s.presented 1).nowMs →
        ∃ t, runSteps 2 s = .next t ∧ t.dec.st = 0#4 ∧ t.dec.result = 2#4 ∧ t.dec.lastMs = s.dec.lastMs
          ∧ t.dec.frame = s.dec.frame ∧ t.dec.bitIdx = s.dec.bitIdx
          ∧ ∀ m, m ≤ 2 → ∃ u, runSteps m s = .next u ∧ lineDriveLow u.dec = false)
      ∧ (¬ Limited s.dec (s.presented 1).nowMs → LineIs s 2 (List.replicate s.params.idleCeil false) →
        ∃ t, runSteps (2 + s.params.idleCeil) s = .next t ∧ t.dec.st = 0#4 ∧ t.dec.result = 3#4
          ∧ t.dec.lastMs = (s.presented 1).nowMs ∧ t.dec.bitIdx = s.dec.bitIdx)
      ∧ (¬ Limited s.dec (s.presented 1).nowMs → LineIs s 2 (List.replicate (h.idle - 1) false ++ [true]) →
        LineIs s (2 + h.idle + s.params.startHold) (List.replicate s.params.ackLowCeil true) →
        ∃ t, runSteps (2 + h.idle + s.params.startHold + s.params.ackLowCeil) s = .next t
          ∧ t.dec.st = 0#4 ∧ t.dec.result = 4#4 ∧ t.dec.lastMs = (s.presented 1).nowMs
          ∧ t.dec.bitIdx = s.dec.bitIdx)
      ∧ (¬ Limited s.dec (s.presented 1).nowMs → LineIs s 2 (List.replicate (h.idle - 1) false ++ [true]) →
        LineIs s (2 + h.idle + s.params.startHold) (List.replicate (h.ackLow - 1) true ++ [false]) →
        LineIs s (2 + h.idle + s.params.startHold + h.ackLow) (List.replicate s.params.ackHighCeil false) →
        ∃ t, runSteps (2 + h.idle + s.params.startHold + h.ackLow + s.params.ackHighCeil) s = .next t
          ∧ t.dec.st = 0#4 ∧ t.dec.result = 5#4 ∧ t.dec.lastMs = (s.presented 1).nowMs
          ∧ t.dec.bitIdx = s.dec.bitIdx)

/-- 42_bit_capture.md R165 and the loop as a whole: from the first BIT_SYNC_WAIT poll of slot 0, 41 slots with sync polls `a_i` and samples
`c_i` take the sum of `a_i + c_i` steps and leave bit `c_i > P_BIT_THRESHOLD` of slot `i` in `frame[40 - i]`, at
ASSEMBLE with `bit_idx` 40; slot `i` begins with `bit_idx` `i` where slot `i - 1` has ended, for every `i` in order. -/
def Obligations.CaptureLoopFillsTheFrame : Prop :=
  ∀ (s : State) (slots : List (Nat × Nat)), s.Inv → s.dec.st = 6#4 → s.dec.cnt = 0 → s.dec.bitIdx = 0#6 →
    slots.length = 41 → SlotsFit s.params slots → NoReset s (slotSteps slots) →
    LineIs s 0 (slots.flatMap slotLevels) →
    (∀ i, i ≤ 40 → ∃ u, runSteps (slotSteps (slots.take i)) s = .next u ∧ u.dec.st = 6#4 ∧ u.dec.cnt = 0
        ∧ u.dec.bitIdx = BitVec.ofNat 6 i)
      ∧ ∃ t, runSteps (slotSteps slots) s = .next t ∧ t.dec.st = 8#4 ∧ t.dec.bitIdx = 40#6
      ∧ ∀ i, i < 41 →
          t.dec.frame.getLsbD (40 - i) = decide (s.params.bitThreshold < (slots.getD i (0, 0)).2)

/-- 42_bit_capture.md R169: after `j` good slots, sync polls that all read high end the attempt with
SYNC_TIMEOUT, and counted polls that all read low with DATA_TIMEOUT; `bit_idx` holds slot `j`, and the diagnostic
registers, the reading and `valid` are as before. -/
def Obligations.LoopFailureNamesTheSlot : Prop :=
  ∀ (s : State) (slots : List (Nat × Nat)) (a : Nat), s.Inv → s.dec.st = 6#4 → s.dec.cnt = 0 →
    s.dec.bitIdx = 0#6 → slots.length ≤ 40 → SlotsFit s.params slots → 1 ≤ a → a ≤ s.params.syncCeil →
    NoReset s (slotSteps slots + s.params.syncCeil + s.params.dataCeil) →
    (LineIs s 0 (slots.flatMap slotLevels ++ List.replicate s.params.syncCeil true) →
        ∃ t, runSteps (slotSteps slots + s.params.syncCeil) s = .next t
          ∧ t.dec = { s.dec with st := 0#4, result := 6#4, done := true, cnt := 0, frame := t.dec.frame,
                                 bitIdx := BitVec.ofNat 6 slots.length, cmdErr := t.dec.cmdErr })
      ∧ (LineIs s 0 (slots.flatMap slotLevels ++ List.replicate (a - 1) true ++ [false]
            ++ List.replicate s.params.dataCeil false) →
        ∃ t, runSteps (slotSteps slots + a + s.params.dataCeil) s = .next t
          ∧ t.dec = { s.dec with st := 0#4, result := 7#4, done := true, cnt := 0, frame := t.dec.frame,
                                 bitIdx := BitVec.ofNat 6 slots.length, cmdErr := t.dec.cmdErr })

/-- 70_reset_and_hazards.md R264 and 40_command_interface.md R120: every accepted attempt, whatever the line, the clock
and the host do, ends unless reset intervenes: at a step between 1 and `L_max` after the accepting one, with an
outcome, busy with `done` 0 until then. -/
def Obligations.EveryAttemptEndsWithinTheBound : Prop :=
  ∀ s : State, s.Inv → s.dec.st = 0#4 → startsAttempt s = true → NoReset s (s.params.maxLatency + 1) →
    ∃ f, 1 ≤ f ∧ f ≤ s.params.maxLatency
      ∧ (∃ t, runSteps (f + 1) s = .next t ∧ t.dec.st = 0#4 ∧ t.dec.done = true
          ∧ 1 ≤ t.dec.result.toNat ∧ t.dec.result.toNat ≤ 8)
      ∧ ∀ m, 0 < m → m ≤ f → ∃ u, runSteps m s = .next u ∧ u.dec.st ≠ 0#4 ∧ u.dec.done = false

/-- The block's purpose, end to end (41_handshake.md, 42_bit_capture.md, 43_framing_checksum.md,
70_reset_and_hazards.md section 4): for every legal instance, every reading and every line that answers the handshake
and sends that reading's frame within the ceilings, the attempt ends with OK after exactly the stated number of steps,
and READING holds the reading that was sent. -/
def Obligations.WholeReadDecodesTheSentReading : Prop :=
  ∀ (s : State) (h : Polls) (slots : List (Nat × Nat)) (b0 : Bool) (hum : Nat) (temp : Int),
    s.Inv → AttemptPasses s → PollsFit s.params h → LineAnswers s h →
    slots.length = 41 → SlotsFit s.params slots →
    LineIs s (handshakeSteps s.params h) (slots.flatMap slotLevels) →
    NoReset s (handshakeSteps s.params h + slotSteps slots + 2) →
    hum ≤ 32767 → -32767 ≤ temp → temp ≤ 32767 →
    (∀ i, i < 41 → decide (s.params.bitThreshold < (slots.getD i (0, 0)).2)
        = (encodeFrame b0 hum temp).getLsbD (40 - i)) →
    ∃ t, runSteps (handshakeSteps s.params h + slotSteps slots + 2) s = .next t
      ∧ t.dec.st = 0#4 ∧ t.dec.done = true ∧ t.dec.result = 1#4 ∧ t.dec.valid = true
      ∧ humTenths (regRead t.dec 2#3) = hum ∧ tempTenths (regRead t.dec 2#3) = temp
      ∧ t.dec.lastMs = (s.presented 1).nowMs

/-- 70_reset_and_hazards.md R252: after a reset step the first attempt passes its rate check whatever the clock is. -/
def Obligations.FirstAttemptAfterResetPasses : Prop :=
  ∀ s : State, s.params.legal = true → (s.presented 0).rst = true → (s.presented 1).rst = false →
    (s.presented 2).rst = false → (∃ ign, decode (s.presented 1).tw = .attemptRead ign) →
    ∃ t, runSteps 3 s = .next t ∧ t.dec.st = 2#4 ∧ t.dec.lastMs = (s.presented 2).nowMs
      ∧ t.dec.attempted = true

/-! ## The clock, the projections and the host's programs -/

/-- 41_handshake.md section 2 and 70_reset_and_hazards.md section 3: the elapsed time is exact across one wrap of the
clock: it is the difference where the clock has not wrapped, and the difference plus 2^32 where it has. -/
def Obligations.ElapsedTimeSurvivesAWrap : Prop :=
  ∀ now last : Word,
    (elapsedMs now last).toNat =
      if last.toNat ≤ now.toNat then now.toNat - last.toNat else now.toNat + 2 ^ 32 - last.toNat

/-- 44_host_projections.md R201 to R205: the projections of READING. -/
def Obligations.ProjectionsOfTheReading : Prop :=
  ∀ (p : Params) (d : Decoder), Decoder.Inv p d →
    humTenths (regRead d 2#3) = d.hum.toNat ∧ d.hum.toNat ≤ 32767
      ∧ tempTenths (regRead d 2#3) = d.temp.toInt ∧ -32767 ≤ d.temp.toInt ∧ d.temp.toInt ≤ 32767
      ∧ humPercent (regRead d 2#3) * 10 = (d.hum.toNat : Rat)
      ∧ tempC (regRead d 2#3) * 10 = (d.temp.toInt : Rat)
      ∧ tempF (regRead d 2#3) * 50 = (d.temp.toInt : Rat) * 9 + 1600

/-- 30_encoding.md section 4: what each line of a host program presents. The word of a `WR` line is a write of its
value to its register, that of an `RD` line a read of its register. Presenting a word runs one step without reset in
which the host's ports hold that word, and reads `RegRead` of the word's index in the state before the step. Every line
but the directives presents its words in order: `WR` and `RD` their own, each command pseudo-instruction that of its
`WR` line, `STEP` that of `RD STATUS` n times, `WAIT_DONE` that of `RD STATUS` until the value read has DONE set, and
`READ_SENSOR` those of its two lines. The directives present nothing. The bench is the model's own (log 20). -/
def Obligations.HostProgramLinesPresentTheirWords : Prop :=
  (∀ (r : HostReg) (v : Word),
      ((wrWord r v).getLsbD 35 = true ∧ (wrWord r v).extractLsb' 32 3 = hostRegIdx r
          ∧ (wrWord r v).extractLsb' 0 32 = v)
        ∧ (rdWord r).getLsbD 35 = false ∧ (rdWord r).extractLsb' 32 3 = hostRegIdx r)
    ∧ (∀ (b b' : Bench) (w : TxWord) (v : Word), b.present w = some (v, b') →
        ((b.inputs w).tw = w ∧ (b.inputs w).rst = false ∧ (b.inputs w).nowMs = b.nowMs)
          ∧ step { b.machine with script := b.inputs w :: b.machine.script.tail } = .next b'.machine
          ∧ v = regRead b.machine.dec (w.extractLsb' 32 3) ∧ b'.nowMs = b.nowMs)
    ∧ (∀ (fuel : Nat) (b : Bench),
        (∀ r v, b.runLine fuel (.wr r v) = (b.present (wrWord r v)).map fun x => ([x.1], x.2))
          ∧ (∀ r, b.runLine fuel (.rd r) = (b.present (rdWord r)).map fun x => ([x.1], x.2))
          ∧ b.runLine fuel .attemptRead = b.runLine fuel (.wr .ctrl 1#32)
          ∧ b.runLine fuel .resetClockRef = b.runLine fuel (.wr .ctrl 2#32)
          ∧ b.runLine fuel .nop = b.runLine fuel (.wr .ctrl 0#32)
          ∧ (∀ n, b.runLine fuel (.stepMany n) = (b.presentMany (rdWord .status) n).map fun b' => ([], b'))
          ∧ b.runLine fuel .readSensor = b.run fuel [.attemptRead, .waitDone]
          ∧ (∀ v, b.runLine fuel (.now v) = some ([], { b with nowMs := v }))
          ∧ ∀ l, b.runLine fuel (.line l) = some ([], { b with levels := l }))
    ∧ (∀ (b b' : Bench) (w : TxWord) (n : Nat), b.presentMany w (n + 1) = some b' →
        ∃ v b₁, b.present w = some (v, b₁) ∧ b₁.presentMany w n = some b')
    ∧ (∀ (fuel : Nat) (b b' : Bench) (vs : List Word), b.runLine fuel .waitDone = some (vs, b') →
        b.presentMany (rdWord .status) vs.length = some b'
          ∧ ∃ early last, vs = early ++ [last] ∧ last.getLsbD 1 = true ∧ ∀ v, v ∈ early → v.getLsbD 1 = false)
end

