-- ==== Sys2Proof/Laws/Words.lean ====
section
/-! SUPPORT. Bit by bit and field by field: what the concatenations of the encodings and of the register words hold.
A proof about a word cites these instead of unfolding the concatenation. -/

namespace Sys2Proof

/-- Format CMD, bit by bit (30_encoding.md R81). -/
theorem encodeCommand_getLsbD (ign : BitVec 30) (cmd : BitVec 2) (i : Nat) :
    (encodeCommand ign cmd).getLsbD i =
      if i < 2 then cmd.getLsbD i
      else if i < 32 then ign.getLsbD (i - 2)
      else if i < 35 then false else decide (i = 35) := by
  rw [show encodeCommand ign cmd = BitVec.cast (show 1 + 3 + 30 + 2 = 36 from rfl)
      (1#1 ++ 0#3 ++ ign ++ cmd) from rfl,
    BitVec.getLsbD_cast, BitVec.getLsbD_append, BitVec.getLsbD_append, BitVec.getLsbD_append]
  by_cases h2 : i < 2
  · simp [h2]
  · by_cases h32 : i < 32
    · have : i - 2 < 30 := by omega
      simp [h2, h32, this]
    · have h30 : ¬ i - 2 < 30 := by omega
      by_cases h35 : i < 35
      · have : i - 2 - 30 < 3 := by omega
        simp [h2, h32, h30, h35, this]
      · have : ¬ i - 2 - 30 < 3 := by omega
        simp only [h2, h32, h30, h35, this, if_false]
        rw [show (1#1).getLsbD (i - 2 - 30 - 3) = decide (i - 2 - 30 - 3 = 0) by simp]
        exact decide_eq_decide.2 (by omega)

/-- A register access word, bit by bit: write strobe, word index, data (30_encoding.md R80). -/
theorem access_getLsbD (we : BitVec 1) (addr : WordIdx) (data : Word) (i : Nat) :
    (BitVec.cast (show 1 + 3 + 32 = 36 from rfl) (we ++ addr ++ data)).getLsbD i =
      if i < 32 then data.getLsbD i
      else if i < 35 then addr.getLsbD (i - 32) else we.getLsbD (i - 35) := by
  rw [BitVec.getLsbD_cast, BitVec.getLsbD_append, BitVec.getLsbD_append]
  by_cases h32 : i < 32
  · simp [h32]
  · by_cases h35 : i < 35
    · have : i - 32 < 3 := by omega
      simp [h32, h35, this]
    · have h3 : ¬ i - 32 < 3 := by omega
      simp only [h32, h35, h3, if_false]
      congr 1

/-- Format RD, bit by bit (30_encoding.md R81). -/
theorem encodeRead_getLsbD (addr : WordIdx) (ign : BitVec 32) (i : Nat) :
    (encodeRead addr ign).getLsbD i =
      if i < 32 then ign.getLsbD i else if i < 35 then addr.getLsbD (i - 32) else false := by
  rw [show encodeRead addr ign = BitVec.cast (show 1 + 3 + 32 = 36 from rfl)
      (0#1 ++ addr ++ ign) from rfl, access_getLsbD]
  simp

/-- Format WRI, bit by bit (30_encoding.md R81). -/
theorem encodeIgnoredWrite_getLsbD (addr : WordIdx) (data : Word) (i : Nat) :
    (encodeIgnoredWrite addr data).getLsbD i =
      if i < 32 then data.getLsbD i else if i < 35 then addr.getLsbD (i - 32) else decide (i = 35) := by
  rw [show encodeIgnoredWrite addr data = BitVec.cast (show 1 + 3 + 32 = 36 from rfl)
      (1#1 ++ addr ++ data) from rfl,
    access_getLsbD]
  by_cases h32 : i < 32
  · simp [h32]
  · by_cases h35 : i < 35
    · simp [h32, h35]
    · simp only [h32, h35, if_false]
      rw [show (1#1).getLsbD (i - 35) = decide (i - 35 = 0) by simp]
      exact decide_eq_decide.2 (by omega)

/-- The transaction word of the ports, bit by bit (30_encoding.md R80). -/
theorem tw_getLsbD (inp : Inputs) (i : Nat) :
    inp.tw.getLsbD i =
      if i < 32 then inp.regWdata.getLsbD i
      else if i < 35 then inp.regAddr.getLsbD (i - 32) else (BitVec.ofBool inp.regWe).getLsbD (i - 35) := by
  rw [show inp.tw = BitVec.cast (show 1 + 3 + 32 = 36 from rfl)
      (BitVec.ofBool inp.regWe ++ inp.regAddr ++ inp.regWdata) from rfl,
    access_getLsbD]

/-- The transaction word of ports that present a word is that word (30_encoding.md R80). -/
theorem withTw_tw (inp : Inputs) (w : TxWord) : (inp.withTw w).tw = w := by
  apply BitVec.eq_of_getLsbD_eq
  intro k hk
  rw [tw_getLsbD]
  by_cases h32 : k < 32
  · simp [Inputs.withTw, h32]
  · by_cases h35 : k < 35
    · have hk' : 32 + (k - 32) = k := by omega
      simp [Inputs.withTw, h32, h35, hk']; omega
    · obtain rfl : k = 35 := by omega
      simp [Inputs.withTw]

end Sys2Proof
end

