-- ==== Sys2Proof/Laws/PerInstr.lean ====
section
/-! SUPPORT. Per-instruction family `RowOf`: the encoding of a well-formed instruction selects the opcode-map row that
carries the instruction's own mnemonic (30_encoding.md R83). -/

namespace Sys2Proof.Laws.RowOf

/-- The mnemonics of the rows a word selects. -/
def selected (w : TxWord) : List String := (opcodeMap.filter fun r => r.selects w).map fun r => r.mnemonic

/-- The row of the instruction's own mnemonic is among those its encoding selects. -/
def Statement (i : Instr) : Prop := i.wf = true → i.mnemonic ∈ selected (encode i)

/-- A row of the map that the word selects is a selected row. -/
theorem mem_selected (w : TxWord) (r : OpcodeRow) (hr : r ∈ opcodeMap) (h : w &&& r.mask = r.pattern) :
    r.mnemonic ∈ selected w := by
  unfold selected
  exact List.mem_map.2 ⟨r, List.mem_filter.2 ⟨hr, by simp [OpcodeRow.selects, h]⟩, rfl⟩

/-- The mask of a CMD row keeps the top four bits and the command. -/
theorem masked_command (ign : BitVec 30) (cmd : BitVec 2) :
    encodeCommand ign cmd &&& 0xF00000003#36 = 0x800000000#36 ||| cmd.setWidth 36 := by
  apply BitVec.eq_of_getLsbD_eq
  intro i hi
  rw [BitVec.getLsbD_and, encodeCommand_getLsbD]
  interval_cases i <;> simp

/-- The mask of a one-word RD row keeps the top four bits. -/
theorem masked_read (addr : WordIdx) (ign : BitVec 32) :
    encodeRead addr ign &&& 0xF00000000#36 = addr.setWidth 36 <<< 32 := by
  apply BitVec.eq_of_getLsbD_eq
  intro i hi
  rw [BitVec.getLsbD_and, encodeRead_getLsbD]
  interval_cases i <;> simp

/-- The mask of a one-word WRI row keeps the top four bits. -/
theorem masked_write (addr : WordIdx) (data : Word) :
    encodeIgnoredWrite addr data &&& 0xF00000000#36 = 0x800000000#36 ||| addr.setWidth 36 <<< 32 := by
  apply BitVec.eq_of_getLsbD_eq
  intro i hi
  rw [BitVec.getLsbD_and, encodeIgnoredWrite_getLsbD]
  interval_cases i <;> simp

/-- A wider mask follows from the four-bit mask. -/
theorem masked_of_masked (w m v : TxWord) (h : w &&& 0xF00000000#36 = v)
    (hm : 0xF00000000#36 &&& m = m) : w &&& m = v &&& m := by
  rw [← h, BitVec.and_assoc, hm]

theorem nop (ign : BitVec 30) : Statement (.nop ign) := fun _ =>
  mem_selected _ ⟨"NOP", 0x800000000#36, 0xF00000003#36⟩ (by decide) (masked_command ign 0#2)

theorem attemptRead (ign : BitVec 30) : Statement (.attemptRead ign) := fun _ =>
  mem_selected _ ⟨"ATTEMPT_READ", 0x800000001#36, 0xF00000003#36⟩ (by decide) (masked_command ign 1#2)

theorem resetClockRef (ign : BitVec 30) : Statement (.resetClockRef ign) := fun _ =>
  mem_selected _ ⟨"RESET_CLOCK_REF", 0x800000002#36, 0xF00000003#36⟩ (by decide) (masked_command ign 2#2)

theorem cmdReserved (ign : BitVec 30) : Statement (.cmdReserved ign) := fun _ =>
  mem_selected _ ⟨"CMD_RESERVED", 0x800000003#36, 0xF00000003#36⟩ (by decide) (masked_command ign 3#2)

theorem rdCtrl (ign : BitVec 32) : Statement (.rdCtrl ign) := fun _ =>
  mem_selected _ ⟨"RD_CTRL", 0x000000000#36, 0xF00000000#36⟩ (by decide) (masked_read 0#3 ign)

theorem rdStatus (ign : BitVec 32) : Statement (.rdStatus ign) := fun _ =>
  mem_selected _ ⟨"RD_STATUS", 0x100000000#36, 0xF00000000#36⟩ (by decide) (masked_read 1#3 ign)

theorem rdReading (ign : BitVec 32) : Statement (.rdReading ign) := fun _ =>
  mem_selected _ ⟨"RD_READING", 0x200000000#36, 0xF00000000#36⟩ (by decide) (masked_read 2#3 ign)

theorem rdRaw (ign : BitVec 32) : Statement (.rdRaw ign) := fun _ =>
  mem_selected _ ⟨"RD_RAW", 0x300000000#36, 0xF00000000#36⟩ (by decide) (masked_read 3#3 ign)

theorem rdCheck (ign : BitVec 32) : Statement (.rdCheck ign) := fun _ =>
  mem_selected _ ⟨"RD_CHECK", 0x400000000#36, 0xF00000000#36⟩ (by decide) (masked_read 4#3 ign)

theorem rdLastMs (ign : BitVec 32) : Statement (.rdLastMs ign) := fun _ =>
  mem_selected _ ⟨"RD_LAST_MS", 0x500000000#36, 0xF00000000#36⟩ (by decide) (masked_read 5#3 ign)

theorem rdUnmapped (idx : WordIdx) (ign : BitVec 32) : Statement (.rdUnmapped idx ign) := by
  intro hwf
  refine mem_selected _ ⟨"RD_UNMAPPED", 0x600000000#36, 0xE00000000#36⟩ (by decide) ?_
  rw [show encode (.rdUnmapped idx ign) = encodeRead idx ign from rfl,
    masked_of_masked _ 0xE00000000#36 _ (masked_read idx ign) (by decide)]
  revert hwf; revert idx; simp only [Instr.wf]; decide

theorem wrIgnored1 (data : Word) : Statement (.wrIgnored1 data) := fun _ =>
  mem_selected _ ⟨"WR_IGNORED_1", 0x900000000#36, 0xF00000000#36⟩ (by decide) (masked_write 1#3 data)

theorem wrIgnored23 (idx : WordIdx) (data : Word) : Statement (.wrIgnored23 idx data) := by
  intro hwf
  refine mem_selected _ ⟨"WR_IGNORED_2_3", 0xA00000000#36, 0xE00000000#36⟩ (by decide) ?_
  rw [show encode (.wrIgnored23 idx data) = encodeIgnoredWrite idx data from rfl,
    masked_of_masked _ 0xE00000000#36 _ (masked_write idx data) (by decide)]
  revert hwf; revert idx; simp only [Instr.wf]; decide

theorem wrIgnored47 (idx : WordIdx) (data : Word) : Statement (.wrIgnored47 idx data) := by
  intro hwf
  refine mem_selected _ ⟨"WR_IGNORED_4_7", 0xC00000000#36, 0xC00000000#36⟩ (by decide) ?_
  rw [show encode (.wrIgnored47 idx data) = encodeIgnoredWrite idx data from rfl,
    masked_of_masked _ 0xC00000000#36 _ (masked_write idx data) (by decide)]
  revert hwf; revert idx; simp only [Instr.wf]; decide

end Sys2Proof.Laws.RowOf
end

