-- ==== Sys2Proof/Laws/State.lean ====
section
/-! SUPPORT. The small lemmas of the updates of the machine and of the decoder: one per field per update, true by
unfolding, and how the environment's schedule moves on. -/

namespace Sys2Proof.Machine

@[simp] theorem present_params (s : State) (a : WordIdx) : (s.present a).params = s.params := rfl
@[simp] theorem present_dec (s : State) (a : WordIdx) : (s.present a).dec = s.dec := rfl
@[simp] theorem present_script (s : State) (a : WordIdx) : (s.present a).script = s.script := rfl
@[simp] theorem present_stepNo (s : State) (a : WordIdx) : (s.present a).stepNo = s.stepNo := rfl
@[simp] theorem present_seen (s : State) (a : WordIdx) : (s.present a).seen = outputs s.dec a := rfl

@[simp] theorem withDec_params (s : State) (d : Decoder) : (s.withDec d).params = s.params := rfl
@[simp] theorem withDec_dec (s : State) (d : Decoder) : (s.withDec d).dec = d := rfl
@[simp] theorem withDec_script (s : State) (d : Decoder) : (s.withDec d).script = s.script := rfl
@[simp] theorem withDec_stepNo (s : State) (d : Decoder) : (s.withDec d).stepNo = s.stepNo := rfl
@[simp] theorem withDec_seen (s : State) (d : Decoder) : (s.withDec d).seen = s.seen := rfl

@[simp] theorem advance_params (s : State) : s.advance.params = s.params := rfl
@[simp] theorem advance_dec (s : State) : s.advance.dec = s.dec := rfl
@[simp] theorem advance_script (s : State) : s.advance.script = s.script.tail := rfl
@[simp] theorem advance_stepNo (s : State) : s.advance.stepNo = s.stepNo + 1 := rfl
@[simp] theorem advance_seen (s : State) : s.advance.seen = s.seen := rfl

@[simp] theorem after_params (s : State) (d : Decoder) : (s.after d).params = s.params := rfl
@[simp] theorem after_dec (s : State) (d : Decoder) : (s.after d).dec = d := rfl
@[simp] theorem after_script (s : State) (d : Decoder) : (s.after d).script = s.script.tail := rfl
@[simp] theorem after_stepNo (s : State) (d : Decoder) : (s.after d).stepNo = s.stepNo + 1 := rfl

@[simp] theorem withTransaction_params (s : State) (w : TxWord) : (s.withTransaction w).params = s.params := rfl
@[simp] theorem withTransaction_dec (s : State) (w : TxWord) : (s.withTransaction w).dec = s.dec := rfl
@[simp] theorem withTransaction_stepNo (s : State) (w : TxWord) : (s.withTransaction w).stepNo = s.stepNo := rfl
@[simp] theorem withTransaction_seen (s : State) (w : TxWord) : (s.withTransaction w).seen = s.seen := rfl

@[simp] theorem finish_st (c : ResultCode) (d : Decoder) : (finish c d).st = 0#4 := rfl
@[simp] theorem finish_cnt (c : ResultCode) (d : Decoder) : (finish c d).cnt = 0 := rfl
@[simp] theorem finish_bitIdx (c : ResultCode) (d : Decoder) : (finish c d).bitIdx = d.bitIdx := rfl
@[simp] theorem finish_frame (c : ResultCode) (d : Decoder) : (finish c d).frame = d.frame := rfl
@[simp] theorem finish_lastMs (c : ResultCode) (d : Decoder) : (finish c d).lastMs = d.lastMs := rfl
@[simp] theorem finish_attempted (c : ResultCode) (d : Decoder) : (finish c d).attempted = d.attempted := rfl
@[simp] theorem finish_hum (c : ResultCode) (d : Decoder) : (finish c d).hum = d.hum := rfl
@[simp] theorem finish_temp (c : ResultCode) (d : Decoder) : (finish c d).temp = d.temp := rfl
@[simp] theorem finish_valid (c : ResultCode) (d : Decoder) : (finish c d).valid = d.valid := rfl
@[simp] theorem finish_result (c : ResultCode) (d : Decoder) : (finish c d).result = resultCode c := rfl
@[simp] theorem finish_done (c : ResultCode) (d : Decoder) : (finish c d).done = true := rfl
@[simp] theorem finish_cmdErr (c : ResultCode) (d : Decoder) : (finish c d).cmdErr = d.cmdErr := rfl
@[simp] theorem finish_rawHum (c : ResultCode) (d : Decoder) : (finish c d).rawHum = d.rawHum := rfl
@[simp] theorem finish_rawTemp (c : ResultCode) (d : Decoder) : (finish c d).rawTemp = d.rawTemp := rfl
@[simp] theorem finish_rawCk (c : ResultCode) (d : Decoder) : (finish c d).rawCk = d.rawCk := rfl
@[simp] theorem finish_calcCk (c : ResultCode) (d : Decoder) : (finish c d).calcCk = d.calcCk := rfl

@[simp] theorem goto_st (f : Fsm) (d : Decoder) : (goto f d).st = fsmCode f := rfl
@[simp] theorem goto_cnt (f : Fsm) (d : Decoder) : (goto f d).cnt = d.cnt := rfl
@[simp] theorem goto_bitIdx (f : Fsm) (d : Decoder) : (goto f d).bitIdx = d.bitIdx := rfl
@[simp] theorem goto_frame (f : Fsm) (d : Decoder) : (goto f d).frame = d.frame := rfl
@[simp] theorem goto_lastMs (f : Fsm) (d : Decoder) : (goto f d).lastMs = d.lastMs := rfl
@[simp] theorem goto_attempted (f : Fsm) (d : Decoder) : (goto f d).attempted = d.attempted := rfl
@[simp] theorem goto_hum (f : Fsm) (d : Decoder) : (goto f d).hum = d.hum := rfl
@[simp] theorem goto_temp (f : Fsm) (d : Decoder) : (goto f d).temp = d.temp := rfl
@[simp] theorem goto_valid (f : Fsm) (d : Decoder) : (goto f d).valid = d.valid := rfl
@[simp] theorem goto_result (f : Fsm) (d : Decoder) : (goto f d).result = d.result := rfl
@[simp] theorem goto_done (f : Fsm) (d : Decoder) : (goto f d).done = d.done := rfl
@[simp] theorem goto_cmdErr (f : Fsm) (d : Decoder) : (goto f d).cmdErr = d.cmdErr := rfl
@[simp] theorem goto_rawHum (f : Fsm) (d : Decoder) : (goto f d).rawHum = d.rawHum := rfl
@[simp] theorem goto_rawTemp (f : Fsm) (d : Decoder) : (goto f d).rawTemp = d.rawTemp := rfl
@[simp] theorem goto_rawCk (f : Fsm) (d : Decoder) : (goto f d).rawCk = d.rawCk := rfl
@[simp] theorem goto_calcCk (f : Fsm) (d : Decoder) : (goto f d).calcCk = d.calcCk := rfl

/-- A step moves the environment's schedule on by one. -/
theorem presented_next (s t : State) (n : Nat) (hscript : t.script = s.script.tail)
    (hstep : t.stepNo = s.stepNo + 1) : t.presented n = s.presented (n + 1) := by
  simp only [State.presented, hscript, hstep, List.drop_tail]
  congr 2; omega

/-- The ports other than the line are sampled as the environment presents them. -/
theorem inputs_eq (s : State) :
    s.inputs.rst = (s.presented 0).rst ∧ s.inputs.regWe = (s.presented 0).regWe
      ∧ s.inputs.regAddr = (s.presented 0).regAddr ∧ s.inputs.regWdata = (s.presented 0).regWdata
      ∧ s.inputs.nowMs = (s.presented 0).nowMs := ⟨rfl, rfl, rfl, rfl, rfl⟩

/-- In a state that samples the line, the level sampled is the one the environment presents. -/
theorem inputs_line_of_samples (s : State) (h : samplesLine s.dec.st = true) :
    s.inputs.line = (s.presented 0).line := by
  have hst : s.dec.st ≠ fsmCode .startPulse := by
    intro he; rw [he] at h; exact absurd h (by decide)
  simp [State.inputs, lineDriveLow, hst]

end Sys2Proof.Machine
end

