-- ==== Sys2Proof/Laws/Step.lean ====
section
/-! SUPPORT. What each shared operation can do, said once: the provers cite these instead of unfolding. -/

namespace Sys2Proof.Machine

/-- Everything the bounded wait can do (41_handshake.md R140): success at this poll, failure at the ceiling, or one
more poll. -/
theorem wait_cases (target : Bool) (ceil : Nat) (fail : ResultCode) (k : Nat → Decoder → Decoder)
    (s : Decoder) (inp : Inputs) (d : Decoder) :
    (inp.line = target ∧ wait target ceil fail k s inp d = k (s.cnt + 1) { d with cnt := 0 })
      ∨ (inp.line ≠ target ∧ ceil ≤ s.cnt + 1 ∧ wait target ceil fail k s inp d = finish fail d)
      ∨ (inp.line ≠ target ∧ s.cnt + 1 < ceil
          ∧ wait target ceil fail k s inp d = { d with cnt := s.cnt + 1 }) := by
  unfold wait
  by_cases hline : inp.line = target
  · exact .inl ⟨hline, by simp [hline]⟩
  · by_cases hceil : s.cnt + 1 ≥ ceil
    · exact .inr (.inl ⟨hline, hceil, by simp [hline, hceil]⟩)
    · exact .inr (.inr ⟨hline, by omega, by simp [hline, hceil]⟩)

/-- Everything RATE_CHECK can do (41_handshake.md R141). -/
theorem rateCheck_cases (s : Decoder) (inp : Inputs) (d : Decoder) :
    (rateLimits s inp.nowMs = true ∧ rateCheck s inp d = finish .rateLimited d)
      ∨ (rateLimits s inp.nowMs = false
          ∧ rateCheck s inp d
              = { d with st := 2#4, lastMs := inp.nowMs, attempted := true, cnt := 0 }) := by
  unfold rateCheck
  cases rateLimits s inp.nowMs with
  | true => exact .inl ⟨rfl, rfl⟩
  | false => exact .inr ⟨rfl, rfl⟩

/-- Everything CHECKSUM_VERIFY can do (43_framing_checksum.md R182, R185). -/
theorem checksumVerify_cases (s d : Decoder) :
    (s.calcCk ≠ s.rawCk ∧ checksumVerify s d = finish .checksum d)
      ∨ (s.calcCk = s.rawCk
          ∧ checksumVerify s d
              = finish .ok { d with hum := humOf s.rawHum, temp := tempOf s.rawTemp, valid := true }) := by
  unfold checksumVerify acceptReading
  by_cases h : s.calcCk = s.rawCk
  · exact .inr ⟨h, by simp [h]⟩
  · exact .inl ⟨h, by simp [h]⟩

/-- Where Dispatch answers, the state's rule ran (40_command_interface.md R121). -/
theorem dispatch_ok (p : Params) (s d d' : Decoder) (inp : Inputs) (h : dispatch p s inp d = .ok d') :
    ∃ f, fsmOf s.st = some f ∧ resultCodeExists s.result = true ∧ d' = runFsm f p s inp d := by
  unfold dispatch at h
  split at h
  · cases h
  · rename_i f hf
    split at h
    · rename_i hr; cases h; exact ⟨f, hf, hr, rfl⟩
    · cases h

/-- Everything a step that answers a next state can have done (40_command_interface.md R110). -/
theorem step_next_cases (s t : State) (h : step s = .next t) :
    s.params.legal = true ∧
      ((s.inputs.rst = true ∧ t = s.resetStep)
        ∨ (s.inputs.rst = false ∧ ∃ u d, exec s.fetch s = .next u
            ∧ dispatch s.params s.dec s.inputs u.dec = .ok d ∧ t = (u.withDec d).advance)) := by
  unfold step at h
  split at h
  · rename_i hlegal
    refine ⟨hlegal, ?_⟩
    split at h
    · rename_i hrst; cases h; exact .inl ⟨hrst, rfl⟩
    · rename_i hrst
      refine .inr ⟨by simpa using hrst, ?_⟩
      split at h
      · rename_i u hu
        unfold endStep at h
        split at h
        · rename_i d hd; cases h; exact ⟨u, d, hu, hd, rfl⟩
        · cases h
      · cases h
      · cases h
  · cases h

/-- The decoder a host transaction leaves (40_command_interface.md R112): the command's writes, or none. -/
theorem exec_cases (i : Instr) (s : State) :
    ∃ d, exec i s = .next ((s.present i.addr).withDec d) ∧
      ((writesNothing i = true ∧ d = s.dec)
        ∨ (∃ ign, i = .attemptRead ign ∧ d = acceptIfReady acceptAttempt s.dec)
        ∨ (∃ ign, i = .resetClockRef ign ∧ d = acceptIfReady (acceptClockRef s.inputs.nowMs) s.dec)
        ∨ (∃ ign, i = .cmdReserved ign ∧ d = rejectCommand s.dec)) := by
  cases i with
  | nop ign => exact ⟨s.dec, rfl, .inl ⟨rfl, rfl⟩⟩
  | attemptRead ign => exact ⟨_, rfl, .inr (.inl ⟨ign, rfl, rfl⟩)⟩
  | resetClockRef ign => exact ⟨_, rfl, .inr (.inr (.inl ⟨ign, rfl, rfl⟩))⟩
  | cmdReserved ign => exact ⟨_, rfl, .inr (.inr (.inr ⟨ign, rfl, rfl⟩))⟩
  | rdCtrl ign => exact ⟨s.dec, rfl, .inl ⟨rfl, rfl⟩⟩
  | rdStatus ign => exact ⟨s.dec, rfl, .inl ⟨rfl, rfl⟩⟩
  | rdReading ign => exact ⟨s.dec, rfl, .inl ⟨rfl, rfl⟩⟩
  | rdRaw ign => exact ⟨s.dec, rfl, .inl ⟨rfl, rfl⟩⟩
  | rdCheck ign => exact ⟨s.dec, rfl, .inl ⟨rfl, rfl⟩⟩
  | rdLastMs ign => exact ⟨s.dec, rfl, .inl ⟨rfl, rfl⟩⟩
  | rdUnmapped idx ign => exact ⟨s.dec, rfl, .inl ⟨rfl, rfl⟩⟩
  | wrIgnored1 data => exact ⟨s.dec, rfl, .inl ⟨rfl, rfl⟩⟩
  | wrIgnored23 idx data => exact ⟨s.dec, rfl, .inl ⟨rfl, rfl⟩⟩
  | wrIgnored47 idx data => exact ⟨s.dec, rfl, .inl ⟨rfl, rfl⟩⟩

/-- A command is accepted exactly in READY (40_command_interface.md R112). -/
theorem acceptIfReady_cases (accept : Decoder → Decoder) (d : Decoder) :
    (d.st = 0#4 ∧ acceptIfReady accept d = accept d)
      ∨ (d.st ≠ 0#4 ∧ acceptIfReady accept d = { d with cmdErr := true }) := by
  unfold acceptIfReady
  by_cases h : d.st = fsmCode .ready
  · exact .inl ⟨h, by simp [h]⟩
  · exact .inr ⟨h, by simp [h, rejectCommand]⟩

/-- One more step at the front of a run. -/
theorem runSteps_succ_of_next (s t : State) (n : Nat) (h : step s = .next t) :
    runSteps (n + 1) s = runSteps n t := by
  simp [runSteps, h]

/-- Runs compose. -/
theorem runSteps_add (m n : Nat) (s t : State) (h : runSteps m s = .next t) :
    runSteps (m + n) s = runSteps n t := by
  induction m generalizing s with
  | zero => cases h; rw [Nat.zero_add]
  | succ m ih =>
    rw [Nat.succ_add]
    simp only [runSteps] at h ⊢
    cases hs : step s with
    | next u => rw [hs] at h; exact ih u h
    | fault f => rw [hs] at h; cases h
    | refused r => rw [hs] at h; cases h

end Sys2Proof.Machine
end

