-- ==== Sys2Proof/Laws/Shape.lean ====
section
/-! SUPPORT. The whole shape of a step without reset, said once: what it leaves in READY and what it leaves in each
busy FSM state (40_command_interface.md R110, R112, R121). A proof about a step cites these instead of unfolding
`step`. -/

namespace Sys2Proof.Machine

/-- The word index of a decoded transaction is its ADDR field (30_encoding.md R81). -/
theorem decode_addr (w : TxWord) : (decode w).addr = w.extractLsb' 32 3 := by
  unfold decode
  generalize w.extractLsb' 32 3 = a
  generalize w.extractLsb' 0 32 = x
  have ha : a = 0 ∨ a = 1 ∨ a = 2 ∨ a = 3 ∨ a = 4 ∨ a = 5 ∨ a = 6 ∨ a = 7 := by revert a; decide
  split
  · rcases ha with h | h | h | h | h | h | h | h <;> subst h <;> simp [decodeWrite, Instr.addr]
    generalize x.extractLsb' 0 2 = c
    have hc : c = 0 ∨ c = 1 ∨ c = 2 ∨ c = 3 := by revert c; decide
    rcases hc with h | h | h | h <;> subst h <;> rfl
  · rcases ha with h | h | h | h | h | h | h | h <;> subst h <;> simp [decodeRead, Instr.addr]

/-- The ADDR field of the transaction word is the port's word index (30_encoding.md R80). -/
theorem tw_addr (i : Inputs) : i.tw.extractLsb' 32 3 = i.regAddr := by
  apply BitVec.eq_of_getLsbD_eq
  intro k hk
  rw [BitVec.getLsbD_extractLsb', tw_getLsbD]
  have h1 : ¬ 32 + k < 32 := by omega
  have h2 : 32 + k < 35 := by omega
  simp [hk, h1, h2]

/-- The word index of the coming step's transaction is the port's. -/
theorem fetch_addr (s : State) : s.fetch.addr = s.inputs.regAddr := by
  rw [State.fetch, decode_addr, tw_addr]

/-- What a host transaction leaves in the decoder in READY (40_command_interface.md R112 to R116). -/
theorem exec_ready_dec (s u : State) (hr : s.dec.st = 0#4) (hu : exec s.fetch s = .next u) :
    (writesNothing s.fetch = true ∧ u.dec = s.dec)
      ∨ ((∃ g, s.fetch = .attemptRead g) ∧ u.dec = { s.dec with st := 1#4, done := false, cmdErr := false })
      ∨ ((∃ g, s.fetch = .resetClockRef g)
          ∧ u.dec = { s.dec with lastMs := s.inputs.nowMs, attempted := true, cmdErr := false })
      ∨ ((∃ g, s.fetch = .cmdReserved g) ∧ u.dec = { s.dec with cmdErr := true }) := by
  obtain ⟨d, hd, hc⟩ := exec_cases s.fetch s
  rw [hd] at hu
  cases hu
  have hr' : s.dec.st = fsmCode .ready := hr
  rcases hc with ⟨hw, rfl⟩ | ⟨g, hi, rfl⟩ | ⟨g, hi, rfl⟩ | ⟨g, hi, rfl⟩
  · exact .inl ⟨hw, rfl⟩
  · exact .inr (.inl ⟨⟨g, hi⟩, by unfold acceptIfReady; rw [if_pos hr']; rfl⟩)
  · exact .inr (.inr (.inl ⟨⟨g, hi⟩, by unfold acceptIfReady; rw [if_pos hr']; rfl⟩))
  · exact .inr (.inr (.inr ⟨⟨g, hi⟩, rfl⟩))

/-- What a host transaction leaves in the decoder while busy: at most `cmd_err` set (40_command_interface.md R117). -/
theorem exec_busy_dec (s u : State) (hb : s.dec.st ≠ 0#4) (hu : exec s.fetch s = .next u) :
    u.dec = { s.dec with cmdErr := s.errAfter } := by
  obtain ⟨d, hd, hc⟩ := exec_cases s.fetch s
  rw [hd] at hu
  cases hu
  have hb' : s.dec.st ≠ fsmCode .ready := hb
  rcases hc with ⟨hw, rfl⟩ | ⟨g, hi, rfl⟩ | ⟨g, hi, rfl⟩ | ⟨g, hi, rfl⟩
  · have : rejectedWhileBusy s.fetch = false := by
      revert hw; cases s.fetch <;> simp [writesNothing, rejectedWhileBusy]
    simp [State.errAfter, this]
  · simp [acceptIfReady, hb', rejectCommand, State.errAfter, hi, rejectedWhileBusy]
  · simp [acceptIfReady, hb', rejectCommand, State.errAfter, hi, rejectedWhileBusy]
  · simp [rejectCommand, State.errAfter, hi, rejectedWhileBusy]

/-- The rule of an FSM state neither reads nor writes `cmd_err` (40_command_interface.md R111). -/
theorem runFsm_cmdErr (f : Fsm) (p : Params) (s d : Decoder) (inp : Inputs) (e : Bool) :
    runFsm f p s inp { d with cmdErr := e } = { runFsm f p s inp d with cmdErr := e } := by
  cases f <;>
    simp only [runFsm, rateCheck, idleWait, startPulse, ackLowWait, ackHighWait, bitSyncWait, bitHighWait, wait,
      assemble, checksumVerify, acceptReading, captureBit, finish, goto] <;>
    (repeat' split) <;> rfl

/-- A step in READY leaves what its host transaction leaves (40_command_interface.md R122). -/
theorem step_of_ready (s : State) (hr : s.Runs 0#4) :
    ∃ u, exec s.fetch s = .next u ∧ step s = .next (s.after u.dec) := by
  obtain ⟨d, hd, -⟩ := exec_cases s.fetch s
  refine ⟨_, hd, ?_⟩
  simp only [step, hr.legal, hr.noReset, if_true, if_false, hd, endStep, withDec_dec, dispatch, hr.inState, fsmOf,
    resultCodeExists, hr.resultExists, decide_true, Bool.false_eq_true, runFsm]
  simp [State.after, State.advance, State.withDec, State.present, outputs, portsWith, fetch_addr, lineDriveLow,
    busyFlag, doneFlag, fsmCode]

/-- A step in a busy FSM state leaves what the state's rule leaves, and `cmd_err` as the host's transaction leaves it
(40_command_interface.md R110, R117, R121). -/
theorem step_of_busy (s : State) (f : Fsm) (hr : s.Runs (fsmCode f)) (hf : f ≠ .ready) :
    step s = .next (s.after { runFsm f s.params s.dec s.inputs s.dec with cmdErr := s.errAfter }) := by
  have hfs : fsmOf s.dec.st = some f := by rw [hr.inState]; cases f <;> rfl
  have hb : s.dec.st ≠ 0#4 := by rw [hr.inState]; revert hf; cases f <;> decide
  obtain ⟨d, hd, -⟩ := exec_cases s.fetch s
  have hd' : d = { s.dec with cmdErr := s.errAfter } := exec_busy_dec s _ hb hd
  simp only [step, hr.legal, hr.noReset, if_true, if_false, hd, endStep, withDec_dec, dispatch, hfs,
    resultCodeExists, hr.resultExists, decide_true, Bool.false_eq_true, hd', runFsm_cmdErr]
  simp [State.after, State.advance, State.withDec, State.present, outputs, portsWith, fetch_addr, lineDriveLow,
    busyFlag, doneFlag, fsmCode]

/-- The code of an FSM state is that of no other. -/
theorem fsmOf_eq_some (c : BitVec 4) (f : Fsm) (h : fsmOf c = some f) : c = fsmCode f := by
  revert h; revert c; cases f <;> decide

/-- Everything a step without reset that answers a next state can have done. -/
theorem step_shape (s t : State) (h : step s = .next t) (hrst : s.inputs.rst = false) :
    ∃ f, s.Runs (fsmCode f)
      ∧ ((f = .ready ∧ ∃ u, exec s.fetch s = .next u ∧ t = s.after u.dec)
        ∨ (f ≠ .ready ∧ t = s.after { runFsm f s.params s.dec s.inputs s.dec with cmdErr := s.errAfter })) := by
  obtain ⟨hl, ⟨hr, -⟩ | ⟨-, u, d, hu, hd, -⟩⟩ := step_next_cases s t h
  · rw [hrst] at hr; cases hr
  · obtain ⟨f, hf, hres, -⟩ := dispatch_ok _ _ _ _ _ hd
    have hR : s.Runs (fsmCode f) :=
      ⟨hl, hrst, fsmOf_eq_some _ _ hf, by simpa [resultCodeExists] using hres⟩
    refine ⟨f, hR, ?_⟩
    by_cases hready : f = .ready
    · subst hready
      obtain ⟨v, hv, hs⟩ := step_of_ready s hR
      rw [h] at hs; cases hs
      exact .inl ⟨rfl, v, hv, rfl⟩
    · rw [step_of_busy s f hR hready] at h; cases h
      exact .inr ⟨hready, rfl⟩

end Sys2Proof.Machine
end

