-- ==== Sys2Proof/Tests/Slice0.lean ====
section
/-! SUPPORT. Tests and witnesses. Expected values come from spec/95_test_vectors.md and the encoding tables of
spec/30_encoding.md; each test's comment says which. A `witness_` theorem shows a concrete state that meets the
hypotheses of the obligation it names. -/

namespace Sys2Proof.Tests

open Sys2Proof.Machine

/-! ## Well-formedness -/

/-- 30_encoding.md R83: word 5 is LAST_MS, not an unmapped word. -/
theorem test_wf_refuses_mapped_word_as_unmapped : (Instr.rdUnmapped 5#3 0#32).wf = false := by decide
/-- 30_encoding.md R83: words 2 and 3 only. -/
theorem test_wf_refuses_word_below_row_2_3 : (Instr.wrIgnored23 1#3 0#32).wf = false := by decide
theorem test_wf_refuses_word_above_row_2_3 : (Instr.wrIgnored23 4#3 0#32).wf = false := by decide
/-- 30_encoding.md R83: words 4 to 7 only. -/
theorem test_wf_refuses_word_below_row_4_7 : (Instr.wrIgnored47 3#3 0#32).wf = false := by decide
theorem test_wf_accepts_the_rows_ends :
    (Instr.rdUnmapped 6#3 0#32).wf ∧ (Instr.rdUnmapped 7#3 0#32).wf ∧ (Instr.wrIgnored23 2#3 0#32).wf
      ∧ (Instr.wrIgnored23 3#3 0#32).wf ∧ (Instr.wrIgnored47 4#3 0#32).wf ∧ (Instr.wrIgnored47 7#3 0#32).wf := by
  decide
/-- 00_scope.md R10: each ceiling and the hold at least 1. -/
theorem test_legal_refuses_idle_ceil_0 : Params.legal ⟨0, 2, 3, 3, 3, 6, 2⟩ = false := by decide
theorem test_legal_refuses_start_hold_0 : Params.legal ⟨3, 0, 3, 3, 3, 6, 2⟩ = false := by decide
theorem test_legal_refuses_ack_low_ceil_0 : Params.legal ⟨3, 2, 0, 3, 3, 6, 2⟩ = false := by decide
theorem test_legal_refuses_ack_high_ceil_0 : Params.legal ⟨3, 2, 3, 0, 3, 6, 2⟩ = false := by decide
theorem test_legal_refuses_sync_ceil_0 : Params.legal ⟨3, 2, 3, 3, 0, 6, 2⟩ = false := by decide
theorem test_legal_refuses_data_ceil_0 : Params.legal ⟨3, 2, 3, 3, 3, 0, 2⟩ = false := by decide
/-- 00_scope.md R10: a threshold of 0 is legal. -/
theorem test_legal_accepts_threshold_0 : Params.legal ⟨1, 1, 1, 1, 1, 1, 0⟩ = true := by decide

/-! ## Decoding: each word written out bit by bit from the formats of 30_encoding.md R81 and the codes of R83, R84:
WE, ADDR (3 bits), IGN or data, CMD -/

theorem test_decode_nop :
    decodeTableWord 36 0b100011111111111111111111111111111100 = some (.nop 0x3FFFFFFF#30) := by decide
theorem test_decode_attempt_read :
    decodeTableWord 36 0b100000000000000000000000000000000001 = some (.attemptRead 0#30) := by decide
theorem test_decode_reset_clock_ref :
    decodeTableWord 36 0b100010000000000000000000000000000110 = some (.resetClockRef 0x20000001#30) := by decide
theorem test_decode_cmd_reserved :
    decodeTableWord 36 0b100000000000000000000000000000000011 = some (.cmdReserved 0#30) := by decide
theorem test_decode_rd_ctrl :
    decodeTableWord 36 0b000000000000000000000000000000000000 = some (.rdCtrl 0#32) := by decide
theorem test_decode_rd_status :
    decodeTableWord 36 0b000110000000000000000000000000000001 = some (.rdStatus 0x80000001#32) := by decide
theorem test_decode_rd_reading :
    decodeTableWord 36 0b001000000000000000000000000000000000 = some (.rdReading 0#32) := by decide
theorem test_decode_rd_raw :
    decodeTableWord 36 0b001100000000000000000000000000000000 = some (.rdRaw 0#32) := by decide
theorem test_decode_rd_check :
    decodeTableWord 36 0b010000000000000000000000000000000000 = some (.rdCheck 0#32) := by decide
theorem test_decode_rd_last_ms :
    decodeTableWord 36 0b010100000000000000000000000000000000 = some (.rdLastMs 0#32) := by decide
theorem test_decode_rd_word_6 :
    decodeTableWord 36 0b011000000000000000000000000000000000 = some (.rdUnmapped 6#3 0#32) := by decide
theorem test_decode_rd_word_7 :
    decodeTableWord 36 0b011100000000000000000000000000000000 = some (.rdUnmapped 7#3 0#32) := by decide
theorem test_decode_wr_status :
    decodeTableWord 36 0b100100000000000000000000000000000001 = some (.wrIgnored1 1#32) := by decide
theorem test_decode_wr_reading :
    decodeTableWord 36 0b101000000000000000000000000000000010 = some (.wrIgnored23 2#3 2#32) := by decide
theorem test_decode_wr_raw :
    decodeTableWord 36 0b101110000000000000000000000000000000 = some (.wrIgnored23 3#3 0x80000000#32) := by decide
theorem test_decode_wr_check :
    decodeTableWord 36 0b110000000000000000000000000000000011 = some (.wrIgnored47 4#3 3#32) := by decide
theorem test_decode_wr_last_ms :
    decodeTableWord 36 0b110100000000000000000000000000000011 = some (.wrIgnored47 5#3 3#32) := by decide
theorem test_decode_wr_word_7 :
    decodeTableWord 36 0b111100000000000000000000000000000011 = some (.wrIgnored47 7#3 3#32) := by decide
/-- 30_encoding.md R80: a transaction word has 36 bits. -/
theorem test_decode_rejects_by_name : (decodeBits 0x1000000000).toOption = none
    ∧ (match decodeBits 0x1000000000 with | .error e => e == .widerThan36Bits | .ok _ => false) = true := by decide
/-- 95_test_vectors.md section 2.7: ignored bits come back out of the encoder. -/
theorem test_encode_keeps_ignored_bits : encode (.attemptRead 0x3FFF#30) = 0x80000FFFD#36 := by decide

/-! ## Small states -/

/-- The test configuration TC of 95_test_vectors.md. -/
def tc : Params := ⟨3, 2, 3, 3, 3, 6, 2⟩

/-- The smallest legal instance. -/
def smallest : Params := ⟨1, 1, 1, 1, 1, 1, 0⟩

/-- The end state of program P1 of 95_test_vectors.md (its register values are those of section 2.8). -/
def ended : Decoder where
  st := 0#4
  cnt := 0
  bitIdx := 40#6
  frame := 0x0027B80322F#41
  lastMs := 5000#32
  attempted := true
  hum := 635#16
  temp := 0xFFCE#16
  valid := true
  result := 1#4
  done := true
  cmdErr := false
  rawHum := 0x027B#16
  rawTemp := 0x8032#16
  rawCk := 0x2F#8
  calcCk := 0x2F#8

/-- The decoder in a busy FSM state, `cnt` polls made. -/
def busyIn (code : BitVec 4) (cnt : Nat) : Decoder := { ended with st := code, cnt := cnt, done := false }

/-- One step's inputs: the transaction word, the line and the clock. -/
def drive (w : TxWord) (line : Bool) (now : Word) : Inputs :=
  ({ rst := false, regWe := false, regAddr := 0#3, regWdata := 0#32, line := line, nowMs := now } : Inputs).withTw w

/-- A step of `RD STATUS` with the line at a level. -/
def quiet (line : Bool) : Inputs := drive 0x100000000#36 line 0#32

/-- A machine in TC with these inputs to come. -/
def machine (d : Decoder) (script : List Inputs) : State :=
  { params := tc, dec := d, script := script, stepNo := 0,
    seen := { lineDriveLow := false, regRdata := 0#32, busy := false, done := false } }

/-- The decoder after one step with these inputs. -/
def next (d : Decoder) (i : Inputs) : Option Decoder := nextDec (step (machine d [i]))

/-- The value on the read port during one step with these inputs. -/
def readBack (d : Decoder) (i : Inputs) : Option Word :=
  match step (machine d [i]) with
  | .next t => some t.seen.regRdata
  | .fault _ => none
  | .refused _ => none

/-! ## One step of each host transaction (95_test_vectors.md sections 2.7 and 2.8) -/

theorem test_nop_keeps_cmd_err :
    next { ended with cmdErr := true } (drive 0x800000000#36 true 0#32) = some { ended with cmdErr := true } := by
  decide
theorem test_nop_lets_a_wait_poll :
    next (busyIn 2#4 0) (drive 0x800000000#36 false 0#32) = some (busyIn 2#4 1) := by decide
theorem test_attempt_read_starts :
    next { ended with cmdErr := true } (drive 0x80000FFFD#36 true 0#32)
      = some { ended with st := 1#4, done := false } := by decide
theorem test_attempt_read_rejected_in_idle_wait :
    next (busyIn 2#4 0) (drive 0x800000001#36 false 0#32) = some { busyIn 2#4 1 with cmdErr := true } := by decide
theorem test_reset_clock_ref_in_ready :
    next { ended with attempted := false, cmdErr := true } (drive 0x800000002#36 true 8000#32)
      = some { ended with lastMs := 8000#32 } := by decide
theorem test_reset_clock_ref_rejected_in_idle_wait :
    next { busyIn 2#4 0 with lastMs := 100#32 } (drive 0x800000002#36 true 200#32)
      = some { busyIn 3#4 0 with lastMs := 100#32, cmdErr := true } := by decide
theorem test_cmd_reserved_in_ready :
    next ended (drive 0x800000003#36 true 0#32) = some { ended with cmdErr := true } := by decide
theorem test_rd_ctrl : readBack ended (drive 0x000000000#36 true 0#32) = some 0#32 := by decide
theorem test_rd_status : readBack ended (drive 0x100000000#36 true 0#32) = some 0x00280116#32 := by decide
theorem test_rd_status_keeps_done : next ended (drive 0x100000000#36 true 0#32) = some ended := by decide
theorem test_rd_reading : readBack ended (drive 0x200000000#36 true 0#32) = some 0xFFCE027B#32 := by decide
theorem test_rd_raw : readBack ended (drive 0x300000000#36 true 0#32) = some 0x8032027B#32 := by decide
theorem test_rd_check : readBack ended (drive 0x400000000#36 true 0#32) = some 0x00002F2F#32 := by decide
theorem test_rd_last_ms : readBack ended (drive 0x500000000#36 true 0#32) = some 0x00001388#32 := by decide
theorem test_rd_word_6 : readBack ended (drive 0x600000000#36 true 0#32) = some 0#32 := by decide
theorem test_rd_word_7 : readBack ended (drive 0x700000000#36 true 0#32) = some 0#32 := by decide
theorem test_wr_status_ignored : next ended (drive 0x900000001#36 true 0#32) = some ended := by decide
theorem test_wr_reading_ignored_and_read :
    next ended (drive 0xAFFFFFFFF#36 true 0#32) = some ended
      ∧ readBack ended (drive 0xAFFFFFFFF#36 true 0#32) = some 0xFFCE027B#32 := by decide
theorem test_wr_word_7_ignored : next ended (drive 0xF00000001#36 true 0#32) = some ended := by decide
/-- 95_test_vectors.md section 2.7: ATTEMPT_READ in the step that ends an attempt is rejected; STATUS then reads
`0x0028011E`. -/
theorem test_attempt_read_rejected_in_the_last_step :
    (next (busyIn 9#4 0) (drive 0x800000001#36 true 0#32)).map (fun d => regRead d 1#3) = some 0x0028011E#32 := by
  decide

/-! ## One step of each FSM state (95_test_vectors.md sections 1.4, 2.1 to 2.6, 2.9) -/

theorem test_rate_check_limits_at_1999 :
    next (busyIn 1#4 0) (drive 0x100000000#36 true 6999#32) = some { ended with result := 2#4 } := by decide
theorem test_rate_check_passes_at_2000 :
    next (busyIn 1#4 0) (drive 0x100000000#36 true 7000#32) = some { busyIn 2#4 0 with lastMs := 7000#32 } := by
  decide
theorem test_rate_check_limits_across_the_wrap :
    (next { busyIn 1#4 0 with lastMs := 0xFFFFFF00#32 } (drive 0x100000000#36 true 0x000006CF#32)).map (·.result)
      = some 2#4 := by decide
theorem test_rate_check_passes_when_the_clock_moved_back :
    (next { busyIn 1#4 0 with lastMs := 0x1000#32 } (drive 0x100000000#36 true 0xFFF#32)).map (·.lastMs)
      = some 0xFFF#32 := by decide
theorem test_start_pulse_reads_low : (machine (busyIn 3#4 0) [quiet true]).inputs.line = false := by decide
theorem test_start_pulse_ends : next (busyIn 3#4 1) (quiet true) = some (busyIn 4#4 0) := by decide
theorem test_ack_low_at_the_ceiling : next (busyIn 4#4 2) (quiet false) = some (busyIn 5#4 0) := by decide
theorem test_ack_low_times_out : next (busyIn 4#4 2) (quiet true) = some { ended with result := 4#4 } := by decide
theorem test_ack_high_clears_the_capture :
    next (busyIn 5#4 2) (quiet true) = some { busyIn 6#4 0 with bitIdx := 0#6, frame := 0#41 } := by decide
theorem test_sync_times_out :
    next { busyIn 6#4 2 with bitIdx := 5#6 } (quiet true) = some { ended with result := 6#4, bitIdx := 5#6 } := by
  decide
theorem test_sample_2_is_0 :
    (next { busyIn 7#4 1 with bitIdx := 6#6, frame := 0#41 } (quiet true)).map (fun d => (d.frame, d.bitIdx, d.st))
      = some (0#41, 7#6, 6#4) := by decide
theorem test_sample_3_is_1 :
    (next { busyIn 7#4 2 with bitIdx := 6#6, frame := 0#41 } (quiet true)).map (fun d => (d.frame, d.bitIdx, d.st))
      = some (1#41, 7#6, 6#4) := by decide
theorem test_last_slot_goes_to_assemble :
    (next { busyIn 7#4 0 with frame := 0x0813DC01917#41 } (quiet true)).map (fun d => (d.frame, d.bitIdx, d.st))
      = some (0x1027B80322E#41, 40#6, 8#4) := by decide
theorem test_assemble :
    (next { busyIn 8#4 0 with frame := 0x0827B8032AF#41 } (quiet true)).map
        (fun d => (regRead d 3#3, regRead d 4#3, d.st)) = some (0x8032827B#32, 0x0000AFAF#32, 9#4) := by decide
theorem test_checksum_rejects :
    next { busyIn 9#4 0 with rawCk := 0x2E#8 } (quiet true) = some { ended with rawCk := 0x2E#8, result := 8#4 } := by
  decide
theorem test_reset_overrides_a_command :
    next (busyIn 3#4 0) { drive 0x800000003#36 true 9#32 with rst := true } = some Decoder.resetState := by decide
/-- 40_command_interface.md R121: FSM codes 10 to 15. -/
theorem test_fsm_code_10_faults :
    step (machine (busyIn 10#4 0) [quiet true]) = .fault .unreachableFsmCode := rfl

/-! ## Frames and projections (95_test_vectors.md sections 1.6, 2.6 and 2.10) -/

theorem test_decode_frames :
    decodeFrame 0x0027B80322F#41 = some (635#16, 0xFFCE#16) ∧ decodeFrame 0x0027B80322E#41 = none
      ∧ decodeFrame 0x0027A80332F#41 = some (634#16, 0xFFCD#16)
      ∧ decodeFrame 0x0827B8032AF#41 = some (635#16, 0xFFCE#16)
      ∧ decodeFrame 0x00000800080#41 = some (0#16, 0#16)
      ∧ decodeFrame 0x07FFFFFFF7C#41 = some (32767#16, 0x8001#16)
      ∧ decodeFrame 0x07FFF7FFFFC#41 = some (32767#16, 32767#16) ∧ decodeFrame 0x0FFFFFFFFFF#41 = none := by decide
theorem test_encode_frames :
    encodeFrame false 1000 0 = 0x003E80000EB#41 ∧ encodeFrame false 0 (-400) = 0x00000819011#41
      ∧ encodeFrame false 1000 350 = 0x003E8015E4A#41 ∧ encodeFrame false 635 (-50) = 0x0027B80322F#41 := by decide
theorem test_projections :
    humPercent 0xFFCE027B#32 = 635 / 10 ∧ tempC 0xFFCE027B#32 = -5 ∧ tempF 0xFFCE027B#32 = 23 := by
  refine ⟨?_, ?_, ?_⟩ <;>
    simp [humPercent, tempF, tempC, show humTenths 0xFFCE027B#32 = 635 by decide,
      show tempTenths 0xFFCE027B#32 = -50 by decide] <;> norm_num

/-! ## Witnesses: the hypotheses of the obligations can be met, each clause at the ends of its range -/

/-- A command word, a clock at 0. -/
def command (w : TxWord) : Inputs := drive w true 0#32

theorem witness_DecodeOfEncodeIsTheInstruction :
    (Instr.cmdReserved 0x3FFFFFFF#30).wf = true ∧ (Instr.rdUnmapped 7#3 0xFFFFFFFF#32).wf = true
      ∧ (Instr.wrIgnored23 3#3 0#32).wf = true ∧ (Instr.wrIgnored47 7#3 0#32).wf = true := by decide
theorem witness_AttemptReadStartsInReady_ResetClockRefRebasesInReady :
    (machine ended [command 0x800000001#36]).dec.st = 0#4 := by decide
theorem witness_CommandWhileBusyIsRejected :
    (∃ i ign, i = Instr.attemptRead ign ∧ (machine (busyIn 1#4 0) []).dec.st ≠ 0#4)
      ∧ ∃ i ign, i = Instr.resetClockRef ign ∧ (machine (busyIn 9#4 0) []).dec.st ≠ 0#4 :=
  ⟨⟨_, 0#30, rfl, by decide⟩, ⟨_, 0x3FFFFFFF#30, rfl, by decide⟩⟩
theorem witness_CtrlAndUnmappedReadZero :
    ((6#3 : WordIdx) = 6#3 ∨ (6#3 : WordIdx) = 7#3) ∧ ((7#3 : WordIdx) = 6#3 ∨ (7#3 : WordIdx) = 7#3) := by decide
theorem witness_IgnoredWritesWriteNothing :
    ((2#3 : WordIdx) = 2#3 ∨ (2#3 : WordIdx) = 3#3) ∧ ((3#3 : WordIdx) = 2#3 ∨ (3#3 : WordIdx) = 3#3)
      ∧ 4 ≤ (4#3 : WordIdx).toNat ∧ 4 ≤ (7#3 : WordIdx).toNat := by decide
theorem witness_StepRunsTheDecodedInstruction :
    (machine ended [command 0x80000FFFD#36]).params.legal = true
      ∧ (machine ended [command 0x80000FFFD#36]).inputs.rst = false
      ∧ decode (machine ended [command 0x80000FFFD#36]).inputs.tw = .attemptRead 0x3FFF#30 := by decide
theorem witness_HostWriteAndDispatchWriteApart :
    (∃ t, exec (.attemptRead 0#30) (machine ended [command 0x800000001#36]) = .next t
        ∧ (machine ended [command 0x800000001#36]).dec.st = 0#4
        ∧ ∃ d, dispatch tc ended (command 0x800000001#36) ended = .ok d)
      ∧ ∃ t, exec (.cmdReserved 0#30) (machine (busyIn 2#4 2) [quiet false]) = .next t
        ∧ (machine (busyIn 2#4 2) [quiet false]).dec.st ≠ 0#4
        ∧ ∃ d, dispatch tc (busyIn 2#4 2) (quiet false) (busyIn 2#4 2) = .ok d :=
  ⟨⟨_, rfl, by decide, _, rfl⟩, ⟨_, rfl, by decide, _, rfl⟩⟩
/-- A reset step from a state no run reaches. -/
def resetComing : State :=
  machine { busyIn 15#4 7 with result := 15#4 } [{ command 0x800000003#36 with rst := true }]
theorem witness_ResetOverridesEverything :
    resetComing.params.legal = true ∧ resetComing.inputs.rst = true := by decide
theorem witness_MachineStopsOnlyAsListed :
    (machine (busyIn 10#4 0) [quiet true]).params.legal = true
      ∧ (machine (busyIn 10#4 0) [quiet true]).inputs.rst = false
      ∧ 10 ≤ (machine (busyIn 10#4 0) [quiet true]).dec.st.toNat
      ∧ (busyIn 9#4 0).st.toNat ≤ 9 ∧ 9 ≤ ({ busyIn 9#4 0 with result := 9#4 } : Decoder).result.toNat
      ∧ ({ busyIn 9#4 0 with result := 8#4 } : Decoder).result.toNat ≤ 8
      ∧ ({ machine ended [] with params := { tc with dataCeil := 0 } } : State).params.dataCeil = 0 := by decide
theorem witness_OutputsAreMooreOutputs :
    (∃ t, step (machine (busyIn 3#4 1) [quiet true]) = .next t) ∧ ∃ t, step resetComing = .next t :=
  ⟨⟨_, rfl⟩, ⟨_, rfl⟩⟩
theorem witness_ReadsHaveNoSideEffects :
    (Instr.rdUnmapped 7#3 0#32).wf = true ∧ (Instr.wrIgnored47 4#3 0#32).wf = true
      ∧ writesNothing (.rdUnmapped 7#3 0#32) = true ∧ writesNothing (.wrIgnored47 4#3 0#32) = true
      ∧ writesNothing (.nop 0#30) = true := by decide

theorem witness_ReadyDoesNothingOfItsOwn :
    ((machine ended [quiet true]).Runs 0#4 ∧ writesNothing (machine ended [quiet true]).fetch = true)
      ∧ ((machine ended [command 0x800000001#36]).Runs 0#4
          ∧ startsAttempt (machine ended [command 0x800000001#36]) = true)
      ∧ ((machine ended [command 0x800000002#36]).Runs 0#4
          ∧ rebasesClock (machine ended [command 0x800000002#36]) = true)
      ∧ ((machine ended [command 0x800000003#36]).Runs 0#4
          ∧ (machine ended [command 0x800000003#36]).fetch = .cmdReserved 0#30) :=
  ⟨⟨⟨rfl, rfl, rfl, by decide⟩, by decide⟩, ⟨⟨rfl, rfl, rfl, by decide⟩, by decide⟩, ⟨⟨rfl, rfl, rfl, by decide⟩, by decide⟩, ⟨rfl, rfl, rfl, by decide⟩, by decide⟩
/-- RATE_CHECK at a clock reading, with `last_ms` 5000. -/
def rateStep (now : Word) : State := machine (busyIn 1#4 0) [drive 0x100000000#36 true now]
theorem witness_RateCheckLimitsOrRecords_limited :
    ((rateStep 5000#32).Runs 1#4 ∧ Limited (rateStep 5000#32).dec (rateStep 5000#32).inputs.nowMs)
      ∧ ((rateStep 6999#32).Runs 1#4 ∧ Limited (rateStep 6999#32).dec (rateStep 6999#32).inputs.nowMs) :=
  ⟨⟨⟨rfl, rfl, rfl, by decide⟩, by decide⟩, ⟨rfl, rfl, rfl, by decide⟩, by decide⟩
theorem witness_RateCheckLimitsOrRecords_passing :
    ((rateStep 7000#32).Runs 1#4 ∧ ¬ Limited (rateStep 7000#32).dec (rateStep 7000#32).inputs.nowMs)
      ∧ ((rateStep 4999#32).Runs 1#4 ∧ ¬ Limited (rateStep 4999#32).dec (rateStep 4999#32).inputs.nowMs) :=
  ⟨⟨⟨rfl, rfl, rfl, by decide⟩, by decide⟩, ⟨rfl, rfl, rfl, by decide⟩, by decide⟩
/-- A state of TC in this FSM state, this many polls made, whose coming step samples this level. -/
def Polled (code : BitVec 4) (cnt : Nat) (line : Bool) : Prop :=
  (machine (busyIn code cnt) [quiet line]).Runs code ∧ (machine (busyIn code cnt) [quiet line]).dec.cnt = cnt
    ∧ (machine (busyIn code cnt) [quiet line]).inputs.line = line
theorem witness_IdleWaitPolls :
    Polled 2#4 2 true ∧ (Polled 2#4 2 false ∧ tc.idleCeil ≤ 2 + 1)
      ∧ (Polled 2#4 1 false ∧ 1 + 1 < tc.idleCeil) :=
  ⟨⟨⟨rfl, rfl, rfl, by decide⟩, rfl, rfl⟩, ⟨⟨⟨rfl, rfl, rfl, by decide⟩, rfl, rfl⟩, by decide⟩, ⟨⟨rfl, rfl, rfl, by decide⟩, rfl, rfl⟩, by decide⟩
theorem witness_StartPulseHolds :
    ((machine (busyIn 3#4 1) [quiet true]).Runs 3#4 ∧ tc.startHold ≤ (busyIn 3#4 1).cnt + 1)
      ∧ ((machine (busyIn 3#4 0) [quiet true]).Runs 3#4 ∧ (busyIn 3#4 0).cnt + 1 < tc.startHold) :=
  ⟨⟨⟨rfl, rfl, rfl, by decide⟩, by decide⟩, ⟨rfl, rfl, rfl, by decide⟩, by decide⟩
theorem witness_AckLowWaitPolls :
    Polled 4#4 2 false ∧ (Polled 4#4 2 true ∧ tc.ackLowCeil ≤ 2 + 1)
      ∧ (Polled 4#4 1 true ∧ 1 + 1 < tc.ackLowCeil) :=
  ⟨⟨⟨rfl, rfl, rfl, by decide⟩, rfl, rfl⟩, ⟨⟨⟨rfl, rfl, rfl, by decide⟩, rfl, rfl⟩, by decide⟩, ⟨⟨rfl, rfl, rfl, by decide⟩, rfl, rfl⟩, by decide⟩
theorem witness_AckHighWaitPolls :
    Polled 5#4 2 true ∧ (Polled 5#4 2 false ∧ tc.ackHighCeil ≤ 2 + 1)
      ∧ (Polled 5#4 1 false ∧ 1 + 1 < tc.ackHighCeil) :=
  ⟨⟨⟨rfl, rfl, rfl, by decide⟩, rfl, rfl⟩, ⟨⟨⟨rfl, rfl, rfl, by decide⟩, rfl, rfl⟩, by decide⟩, ⟨⟨rfl, rfl, rfl, by decide⟩, rfl, rfl⟩, by decide⟩
theorem witness_BitSyncWaitPolls :
    Polled 6#4 2 false ∧ (Polled 6#4 2 true ∧ tc.syncCeil ≤ 2 + 1)
      ∧ (Polled 6#4 1 true ∧ 1 + 1 < tc.syncCeil) :=
  ⟨⟨⟨rfl, rfl, rfl, by decide⟩, rfl, rfl⟩, ⟨⟨⟨rfl, rfl, rfl, by decide⟩, rfl, rfl⟩, by decide⟩, ⟨⟨rfl, rfl, rfl, by decide⟩, rfl, rfl⟩, by decide⟩
/-- Samples 2 and 3 of TC stand on the two sides of the threshold, and a full frame loses its bit 40. -/
theorem witness_BitHighWaitPolls :
    (Polled 7#4 1 true ∧ (0x004F700645E#41 : Frame).toNat
        = (2 * (busyIn 7#4 1).frame.toNat + if tc.bitThreshold < 1 + 1 then 1 else 0) % 2 ^ 41)
      ∧ (Polled 7#4 2 true ∧ (0x004F700645F#41 : Frame).toNat
        = (2 * (busyIn 7#4 2).frame.toNat + if tc.bitThreshold < 2 + 1 then 1 else 0) % 2 ^ 41)
      ∧ (Polled 7#4 5 false ∧ tc.dataCeil ≤ 5 + 1) ∧ (Polled 7#4 4 false ∧ 4 + 1 < tc.dataCeil)
      ∧ (0x1FFFFFFFFFE#41 : Frame).toNat = (2 * (0x1FFFFFFFFFF#41 : Frame).toNat + 0) % 2 ^ 41 :=
  ⟨⟨⟨⟨rfl, rfl, rfl, by decide⟩, rfl, rfl⟩, by decide⟩, ⟨⟨⟨rfl, rfl, rfl, by decide⟩, rfl, rfl⟩, by decide⟩, ⟨⟨⟨rfl, rfl, rfl, by decide⟩, rfl, rfl⟩, by decide⟩,
    ⟨⟨⟨rfl, rfl, rfl, by decide⟩, rfl, rfl⟩, by decide⟩, by decide⟩
theorem witness_ThresholdSplitsSamples :
    2 ≤ tc.bitThreshold ∧ tc.bitThreshold < 3 ∧ (smallest.bitThreshold = 0 ∧ 1 ≤ 1)
      ∧ (({ tc with bitThreshold := 6 } : Params).dataCeil ≤ ({ tc with bitThreshold := 6 } : Params).bitThreshold
          ∧ 6 ≤ ({ tc with bitThreshold := 6 } : Params).dataCeil) := by decide
theorem witness_AssembleExtractsTheFields : (machine (busyIn 8#4 0) [quiet true]).Runs 8#4 :=
  ⟨rfl, rfl, rfl, by decide⟩
theorem witness_ChecksumVerifyAcceptsOrRejects :
    ((machine (busyIn 9#4 0) [quiet true]).Runs 9#4 ∧ (busyIn 9#4 0).calcCk = (busyIn 9#4 0).rawCk)
      ∧ ((machine { busyIn 9#4 0 with rawCk := 0x2E#8 } [quiet true]).Runs 9#4
          ∧ ({ busyIn 9#4 0 with rawCk := 0x2E#8 } : Decoder).calcCk
              ≠ ({ busyIn 9#4 0 with rawCk := 0x2E#8 } : Decoder).rawCk) :=
  ⟨⟨⟨rfl, rfl, rfl, by decide⟩, by decide⟩, ⟨rfl, rfl, rfl, by decide⟩, by decide⟩
theorem witness_ReadingSurvivesTheWire :
    (32767 ≤ 32767 ∧ (-32767 : Int) ≤ -32767 ∧ (-32767 : Int) ≤ 32767)
      ∧ (0 ≤ 32767 ∧ (-32767 : Int) ≤ 32767 ∧ (32767 : Int) ≤ 32767) := by decide
theorem witness_SingleBitErrorsAreDetected :
    39 < 40 ∧ 0 < 40 ∧ decodeFrame 0x0027B80322F#41 ≠ none := by decide
theorem witness_CompleteFrameEndsAsDecodeFrame :
    (machine (busyIn 8#4 0) [quiet true, quiet true]).Runs 8#4
      ∧ ((machine (busyIn 8#4 0) [quiet true, quiet true]).presented 1).rst = false
      ∧ decodeFrame (busyIn 8#4 0).frame = some (635#16, 0xFFCE#16)
      ∧ decodeFrame ({ busyIn 8#4 0 with frame := 0x0027B80322E#41 } : Decoder).frame = none :=
  ⟨⟨rfl, rfl, rfl, by decide⟩, by decide, by decide, by decide⟩

/-- An accepted RESET_CLOCK_REF and a passing RATE_CHECK set `attempted` where it was 0. -/
theorem witness_FlagsAreSetAndClearedAsListed_attempted :
    (∃ t, step (machine { ended with attempted := false } [command 0x800000002#36]) = .next t
        ∧ t.dec.attempted = true)
      ∧ ∃ t, step (machine { busyIn 1#4 0 with attempted := false } [quiet true]) = .next t
        ∧ t.dec.attempted = true :=
  ⟨⟨_, rfl, by decide⟩, ⟨_, rfl, by decide⟩⟩
/-- The states and inputs below answer a next state without reset: the hypotheses of TimestampHasTwoWriters,
FlagsAreSetAndClearedAsListed and SlotIndexAndDiagnosticsHaveTheirWriters, one case of each table row. -/
theorem witness_writers :
    (∃ t, step (machine (busyIn 1#4 0) [drive 0x100000000#36 true 7000#32]) = .next t ∧ t.dec.lastMs = 7000#32)
      ∧ (∃ t, step (machine ended [drive 0x800000002#36 true 9#32]) = .next t ∧ t.dec.lastMs = 9#32)
      ∧ (∃ t, step (machine ended [command 0x800000001#36]) = .next t ∧ t.dec.done = false)
      ∧ (∃ t, step (machine (busyIn 9#4 0) [quiet true]) = .next t ∧ t.dec.done = true ∧ t.dec.valid = true)
      ∧ (∃ t, step (machine (busyIn 5#4 0) [quiet true]) = .next t ∧ t.dec.bitIdx = 0#6)
      ∧ (∃ t, step (machine { busyIn 7#4 0 with bitIdx := 39#6 } [quiet true]) = .next t ∧ t.dec.bitIdx = 40#6)
      ∧ (∃ t, step (machine (busyIn 7#4 0) [quiet true]) = .next t ∧ t.dec.bitIdx = 40#6) :=
  ⟨⟨_, rfl, by decide⟩, ⟨_, rfl, by decide⟩, ⟨_, rfl, by decide⟩, ⟨_, rfl, by decide⟩, ⟨_, rfl, by decide⟩,
    ⟨_, rfl, by decide⟩, ⟨_, rfl, by decide⟩⟩
/-- A rate-limited attempt: accepted in the first step, finished by the second. -/
def limitedAttempt : State :=
  machine ended [drive 0x800000001#36 true 6999#32, drive 0x100000000#36 true 6999#32]
theorem witness_FailedAttemptsKeepTheReading :
    (∃ t, step limitedAttempt = .next t ∧ limitedAttempt.inputs.rst = false
        ∧ ¬ (limitedAttempt.dec.st = 9#4 ∧ limitedAttempt.dec.calcCk = limitedAttempt.dec.rawCk))
      ∧ limitedAttempt.dec.st = 0#4 ∧ NoReset limitedAttempt 2
      ∧ (∀ m u, 0 < m → m < 2 → runSteps m limitedAttempt = .next u → u.dec.st ≠ 0#4)
      ∧ ∃ t, runSteps 2 limitedAttempt = .next t ∧ t.dec.st = 0#4 ∧ t.dec.result = 2#4 := by
  refine ⟨⟨_, rfl, by decide, by decide⟩, by decide, by decide, ?_, ⟨_, rfl, by decide, by decide⟩⟩
  intro m u h0 h2 hu
  obtain rfl : m = 1 := by omega
  cases hu
  decide
/-- One attempt ended by each busy FSM state that can end one: the hypotheses of FinishWritesFourFields and
EachStateRaisesItsOwnCode. -/
theorem witness_finishes :
    (∃ t, step (machine (busyIn 1#4 0) [drive 0x100000000#36 true 6999#32]) = .next t ∧ t.dec.st = 0#4)
      ∧ (∃ t, step (machine (busyIn 2#4 2) [quiet false]) = .next t ∧ t.dec.st = 0#4)
      ∧ (∃ t, step (machine (busyIn 4#4 2) [quiet true]) = .next t ∧ t.dec.st = 0#4)
      ∧ (∃ t, step (machine (busyIn 5#4 2) [quiet false]) = .next t ∧ t.dec.st = 0#4)
      ∧ (∃ t, step (machine (busyIn 6#4 2) [quiet true]) = .next t ∧ t.dec.st = 0#4)
      ∧ (∃ t, step (machine (busyIn 7#4 5) [quiet false]) = .next t ∧ t.dec.st = 0#4)
      ∧ (∃ t, step (machine (busyIn 9#4 0) [quiet true]) = .next t ∧ t.dec.st = 0#4)
      ∧ (∃ t, step (machine { busyIn 9#4 0 with rawCk := 0#8 } [quiet true]) = .next t ∧ t.dec.result = 8#4) :=
  ⟨⟨_, rfl, by decide⟩, ⟨_, rfl, by decide⟩, ⟨_, rfl, by decide⟩, ⟨_, rfl, by decide⟩, ⟨_, rfl, by decide⟩,
    ⟨_, rfl, by decide⟩, ⟨_, rfl, by decide⟩, ⟨_, rfl, by decide⟩⟩
/-- One move from each busy FSM state that has one: the other hypotheses of EachStateRaisesItsOwnCode. -/
theorem witness_moves :
    (∃ t, step (machine (busyIn 1#4 0) [drive 0x100000000#36 true 7000#32]) = .next t ∧ t.dec.st = 2#4)
      ∧ (∃ t, step (machine (busyIn 2#4 0) [quiet true]) = .next t ∧ t.dec.st = 3#4)
      ∧ (∃ t, step (machine (busyIn 3#4 1) [quiet true]) = .next t ∧ t.dec.st = 4#4)
      ∧ (∃ t, step (machine (busyIn 4#4 0) [quiet false]) = .next t ∧ t.dec.st = 5#4)
      ∧ (∃ t, step (machine (busyIn 5#4 0) [quiet true]) = .next t ∧ t.dec.st = 6#4)
      ∧ (∃ t, step (machine (busyIn 6#4 0) [quiet false]) = .next t ∧ t.dec.st = 7#4)
      ∧ (∃ t, step (machine (busyIn 7#4 0) [quiet true]) = .next t ∧ t.dec.st = 8#4)
      ∧ (∃ t, step (machine (busyIn 8#4 0) [quiet true]) = .next t ∧ t.dec.st = 9#4) :=
  ⟨⟨_, rfl, by decide⟩, ⟨_, rfl, by decide⟩, ⟨_, rfl, by decide⟩, ⟨_, rfl, by decide⟩, ⟨_, rfl, by decide⟩,
    ⟨_, rfl, by decide⟩, ⟨_, rfl, by decide⟩, ⟨_, rfl, by decide⟩⟩
theorem witness_LineAndClockAreReadOnlyWhereStated :
    samplesLine (machine (busyIn 3#4 0) [quiet true]).dec.st = false
      ∧ (machine (busyIn 7#4 0) [quiet true]).dec.st ≠ 1#4
      ∧ ¬ ((machine ended [quiet true]).dec.st = 0#4 ∧ rebasesClock (machine ended [quiet true]) = true) := by decide

/-- The end state of P1 has the invariant, and so have a wait in the middle of the next attempt's capture and the
state that is about to verify a frame. -/
theorem inv_ended : Decoder.Inv tc ended := by constructor <;> decide
theorem inv_capturing : Decoder.Inv tc { busyIn 7#4 5 with bitIdx := 3#6, frame := 7#41 } := by
  constructor <;> decide
theorem inv_verifying : Decoder.Inv tc { busyIn 9#4 0 with result := 8#4 } := by constructor <;> decide
theorem witness_EveryStepKeepsTheInvariant_ReachableRunsNeverStop :
    ∃ s t : State, s.Inv ∧ s.dec.st = 7#4 ∧ step s = .next t :=
  ⟨machine { busyIn 7#4 5 with bitIdx := 3#6, frame := 7#41 } [quiet true], _, ⟨by decide, inv_capturing⟩, by decide, rfl⟩

/-- A wait of TC at its first poll, its line read from a list. -/
def waiting (code : BitVec 4) (line : List Bool) : State := machine (busyIn code 0) (line.map quiet)
/-- The hypotheses of BoundedWaitsSucceedOrFail for success at poll `c`. -/
def WaitSucceeds (s : State) (w : WaitRow) (c : Nat) : Prop :=
  s.Runs w.code ∧ s.dec.cnt = 0 ∧ 1 ≤ c ∧ c ≤ w.ceil ∧ NoReset s c
    ∧ LineIs s 0 (List.replicate (c - 1) (!w.target) ++ [w.target])
/-- The hypotheses of BoundedWaitsSucceedOrFail for failure. -/
def WaitFails (s : State) (w : WaitRow) : Prop :=
  s.Runs w.code ∧ s.dec.cnt = 0 ∧ NoReset s w.ceil ∧ LineIs s 0 (List.replicate w.ceil (!w.target))
theorem waits_of_tc : waitRows tc = [⟨2#4, true, 3, 3#4⟩, ⟨4#4, false, 3, 4#4⟩, ⟨5#4, true, 3, 5#4⟩,
    ⟨6#4, false, 3, 6#4⟩, ⟨7#4, true, 6, 7#4⟩] := rfl
theorem witness_BoundedWaitsSucceedOrFail_first_poll :
    WaitSucceeds (waiting 2#4 [true]) ⟨2#4, true, 3, 3#4⟩ 1
      ∧ WaitSucceeds (waiting 4#4 [false]) ⟨4#4, false, 3, 4#4⟩ 1 :=
  ⟨⟨⟨rfl, rfl, rfl, by decide⟩, by decide, by decide, by decide, by decide, by decide⟩,
    ⟨⟨rfl, rfl, rfl, by decide⟩, by decide, by decide, by decide, by decide, by decide⟩⟩
theorem witness_BoundedWaitsSucceedOrFail_last_poll :
    WaitSucceeds (waiting 6#4 [true, true, false]) ⟨6#4, false, 3, 6#4⟩ 3
      ∧ WaitSucceeds (waiting 7#4 [false, false, false, false, false, true]) ⟨7#4, true, 6, 7#4⟩ 6 :=
  ⟨⟨⟨rfl, rfl, rfl, by decide⟩, by decide, by decide, by decide, by decide, by decide⟩,
    ⟨⟨rfl, rfl, rfl, by decide⟩, by decide, by decide, by decide, by decide, by decide⟩⟩
theorem witness_BoundedWaitsSucceedOrFail_failure :
    WaitFails (waiting 5#4 [false, false, false]) ⟨5#4, true, 3, 5#4⟩
      ∧ WaitFails (waiting 6#4 [true, true, true]) ⟨6#4, false, 3, 6#4⟩ :=
  ⟨⟨⟨rfl, rfl, rfl, by decide⟩, by decide, by decide, by decide⟩,
    ⟨⟨rfl, rfl, rfl, by decide⟩, by decide, by decide, by decide⟩⟩

/-- ATTEMPT_READ at clock 7000, then these line levels, one a step. -/
def attempt (levels : List Bool) : State :=
  machine ended (drive 0x800000001#36 true 7000#32 :: drive 0x100000000#36 true 7000#32
    :: levels.map fun l => drive 0x100000000#36 l 7000#32)
/-- The polls of the witnesses: the idle wait at its ceiling, the others at their first poll or ceiling. -/
def polls : Polls := ⟨3, 1, 3⟩
/-- The line of those polls: idle, two hold steps, acknowledgment low and high. -/
def answer : List Bool := [false, false, true, true, true, false, false, false, true]
theorem inv_attempt (levels : List Bool) : (attempt levels).Inv := ⟨rfl, inv_ended⟩
theorem witness_HandshakeTakesItsPolls :
    (attempt answer).Inv ∧ AttemptPasses (attempt answer) ∧ PollsFit (attempt answer).params polls
      ∧ LineAnswers (attempt answer) polls
      ∧ NoReset (attempt answer) (handshakeSteps (attempt answer).params polls) :=
  ⟨inv_attempt _, ⟨by decide, by decide, by decide⟩, by decide, ⟨by decide, by decide, by decide⟩, by decide⟩

/-- The smallest instance from RESET_STATE: ATTEMPT_READ, then these line levels, one a step. -/
def smallAttempt (levels : List Bool) : State :=
  { machine Decoder.resetState (command 0x800000001#36 :: levels.map quiet) with params := smallest }
theorem inv_reset_small : Decoder.Inv smallest Decoder.resetState := by constructor <;> decide
theorem inv_smallAttempt (levels : List Bool) : (smallAttempt levels).Inv := ⟨rfl, inv_reset_small⟩
/-- The hypotheses of HandshakeFailureNamesTheGate before its clauses. -/
def GateHypotheses (s : State) (h : Polls) : Prop :=
  s.Inv ∧ s.dec.st = 0#4 ∧ startsAttempt s = true ∧ PollsFit s.params h ∧ NoReset s (s.params.maxLatency + 1)
/-- An attempt of the smallest instance one millisecond too early. -/
def earlyAttempt : State :=
  { machine ended (drive 0x800000001#36 true 6999#32 :: List.replicate 90 (drive 0x100000000#36 true 6999#32))
    with params := smallest }
theorem inv_ended_small : Decoder.Inv smallest ended := by constructor <;> decide
/-- The steps after a line's levels, so that 90 steps are decided: 89 bound an attempt of the smallest instance. -/
def padding : List Bool := List.replicate 90 true
theorem witness_HandshakeFailureNamesTheGate_rate :
    GateHypotheses earlyAttempt ⟨1, 1, 1⟩ ∧ Limited earlyAttempt.dec (earlyAttempt.presented 1).nowMs :=
  ⟨⟨⟨rfl, inv_ended_small⟩, by decide, by decide, by decide, by decide⟩, by decide⟩
theorem witness_HandshakeFailureNamesTheGate_idle :
    GateHypotheses (smallAttempt ([true, false] ++ padding)) ⟨1, 1, 1⟩
      ∧ ¬ Limited (smallAttempt ([true, false] ++ padding)).dec
          ((smallAttempt ([true, false] ++ padding)).presented 1).nowMs
      ∧ LineIs (smallAttempt ([true, false] ++ padding)) 2 (List.replicate 1 false) :=
  ⟨⟨inv_smallAttempt _, by decide, by decide, by decide, by decide⟩, by decide, by decide⟩
theorem witness_HandshakeFailureNamesTheGate_ack_low :
    GateHypotheses (smallAttempt padding) ⟨1, 1, 1⟩
      ∧ ¬ Limited (smallAttempt padding).dec ((smallAttempt padding).presented 1).nowMs
      ∧ LineIs (smallAttempt padding) 2 (List.replicate (1 - 1) false ++ [true])
      ∧ LineIs (smallAttempt padding) (2 + 1 + 1) (List.replicate 1 true) :=
  ⟨⟨inv_smallAttempt _, by decide, by decide, by decide, by decide⟩, by decide, by decide, by decide⟩
theorem witness_HandshakeFailureNamesTheGate_ack_high :
    GateHypotheses (smallAttempt ([true, true, true, false, false] ++ padding)) ⟨1, 1, 1⟩
      ∧ ¬ Limited (smallAttempt ([true, true, true, false, false] ++ padding)).dec
          ((smallAttempt ([true, true, true, false, false] ++ padding)).presented 1).nowMs
      ∧ LineIs (smallAttempt ([true, true, true, false, false] ++ padding)) 2
          (List.replicate (1 - 1) false ++ [true])
      ∧ LineIs (smallAttempt ([true, true, true, false, false] ++ padding)) (2 + 1 + 1)
          (List.replicate (1 - 1) true ++ [false])
      ∧ LineIs (smallAttempt ([true, true, true, false, false] ++ padding)) (2 + 1 + 1 + 1)
          (List.replicate 1 false) :=
  ⟨⟨inv_smallAttempt _, by decide, by decide, by decide, by decide⟩, by decide, by decide, by decide, by decide⟩

/-- The first poll of slot 0 of the smallest instance, its line read from a list. -/
def capturing (levels : List Bool) : State :=
  { machine { busyIn 6#4 0 with bitIdx := 0#6, frame := 0#41 } (levels.map quiet) with params := smallest }
theorem inv_slot_0 : Decoder.Inv smallest { busyIn 6#4 0 with bitIdx := 0#6, frame := 0#41 } := by
  constructor <;> decide
theorem inv_capturing_slot_0 (levels : List Bool) : (capturing levels).Inv := ⟨rfl, inv_slot_0⟩
/-- 41 slots of one sync poll and one sample each. -/
def slots41 : List (Nat × Nat) := List.replicate 41 (1, 1)
theorem witness_CaptureLoopFillsTheFrame :
    (capturing (slots41.flatMap slotLevels)).Inv ∧ slots41.length = 41 ∧ SlotsFit smallest slots41
      ∧ NoReset (capturing (slots41.flatMap slotLevels)) (slotSteps slots41)
      ∧ LineIs (capturing (slots41.flatMap slotLevels)) 0 (slots41.flatMap slotLevels) :=
  ⟨inv_capturing_slot_0 _, by decide, by decide, by decide, by decide⟩
/-- The hypotheses of LoopFailureNamesTheSlot before its clauses. -/
def LoopHypotheses (s : State) (slots : List (Nat × Nat)) (a : Nat) : Prop :=
  s.Inv ∧ s.dec.st = 6#4 ∧ s.dec.cnt = 0 ∧ s.dec.bitIdx = 0#6 ∧ slots.length ≤ 40 ∧ SlotsFit s.params slots
    ∧ 1 ≤ a ∧ a ≤ s.params.syncCeil ∧ NoReset s (slotSteps slots + s.params.syncCeil + s.params.dataCeil)
/-- 40 good slots. -/
def slots40 : List (Nat × Nat) := List.replicate 40 (1, 1)
theorem witness_LoopFailureNamesTheSlot_sync_0 :
    LoopHypotheses (capturing [true, true]) [] 1
      ∧ LineIs (capturing [true, true]) 0 (([] : List (Nat × Nat)).flatMap slotLevels ++ List.replicate 1 true) :=
  ⟨⟨inv_capturing_slot_0 _, by decide, by decide, by decide, by decide, by decide, by decide, by decide, by decide⟩,
    by decide⟩
theorem witness_LoopFailureNamesTheSlot_sync_40 :
    LoopHypotheses (capturing (slots40.flatMap slotLevels ++ [true, true])) slots40 1
      ∧ LineIs (capturing (slots40.flatMap slotLevels ++ [true, true])) 0
          (slots40.flatMap slotLevels ++ List.replicate 1 true) :=
  ⟨⟨inv_capturing_slot_0 _, by decide, by decide, by decide, by decide, by decide, by decide, by decide, by decide⟩,
    by decide⟩
theorem witness_LoopFailureNamesTheSlot_data_0 :
    LoopHypotheses (capturing [false, false]) [] 1
      ∧ LineIs (capturing [false, false]) 0 (([] : List (Nat × Nat)).flatMap slotLevels
          ++ List.replicate (1 - 1) true ++ [false] ++ List.replicate 1 false) :=
  ⟨⟨inv_capturing_slot_0 _, by decide, by decide, by decide, by decide, by decide, by decide, by decide, by decide⟩,
    by decide⟩
theorem witness_LoopFailureNamesTheSlot_data_40 :
    LoopHypotheses (capturing (slots40.flatMap slotLevels ++ [false, false])) slots40 1
      ∧ LineIs (capturing (slots40.flatMap slotLevels ++ [false, false])) 0 (slots40.flatMap slotLevels
          ++ List.replicate (1 - 1) true ++ [false] ++ List.replicate 1 false) :=
  ⟨⟨inv_capturing_slot_0 _, by decide, by decide, by decide, by decide, by decide, by decide, by decide, by decide⟩,
    by decide⟩
theorem witness_EveryAttemptEndsWithinTheBound :
    (smallAttempt (List.replicate 90 true)).Inv ∧ (smallAttempt (List.replicate 90 true)).dec.st = 0#4
      ∧ startsAttempt (smallAttempt (List.replicate 90 true)) = true
      ∧ NoReset (smallAttempt (List.replicate 90 true)) (smallest.maxLatency + 1) :=
  ⟨inv_smallAttempt _, by decide, by decide, by decide⟩

/-- An instance with a sample on each side of its threshold, so that it can receive a reading. -/
def receiver : Params := ⟨1, 1, 1, 1, 1, 2, 1⟩
/-- The slots of the frame of humidity 32767 and temperature -32767, spurious bit 1: sample 2 for a 1, sample 1 for
a 0. -/
def slotsOfReading : List (Nat × Nat) :=
  (List.range 41).map fun i => (1, if (encodeFrame true 32767 (-32767)).getLsbD (40 - i) then 2 else 1)
/-- A whole read of that frame. -/
def wholeRead : State :=
  { machine Decoder.resetState (command 0x800000001#36
      :: ([true, true, true, false, true] ++ slotsOfReading.flatMap slotLevels ++ [true, true]).map quiet)
    with params := receiver }
theorem inv_reset_receiver : Decoder.Inv receiver Decoder.resetState := by constructor <;> decide
theorem inv_wholeRead : wholeRead.Inv := ⟨rfl, inv_reset_receiver⟩
theorem witness_WholeReadDecodesTheSentReading :
    wholeRead.Inv ∧ AttemptPasses wholeRead ∧ PollsFit wholeRead.params ⟨1, 1, 1⟩
      ∧ LineAnswers wholeRead ⟨1, 1, 1⟩ ∧ slotsOfReading.length = 41 ∧ SlotsFit wholeRead.params slotsOfReading
      ∧ LineIs wholeRead (handshakeSteps wholeRead.params ⟨1, 1, 1⟩) (slotsOfReading.flatMap slotLevels)
      ∧ NoReset wholeRead (handshakeSteps wholeRead.params ⟨1, 1, 1⟩ + slotSteps slotsOfReading + 2)
      ∧ ∀ i, i < 41 → decide (wholeRead.params.bitThreshold < (slotsOfReading.getD i (0, 0)).2)
          = (encodeFrame true 32767 (-32767)).getLsbD (40 - i) :=
  ⟨inv_wholeRead, ⟨by decide, by decide, by decide⟩, by decide, ⟨by decide, by decide, by decide⟩, by decide,
    by decide, by decide, by decide, by decide⟩

/-- Reset, then an attempt at clock 0. -/
def afterReset : State :=
  machine (busyIn 7#4 3) [{ quiet true with rst := true }, command 0x800000001#36, quiet true]
theorem witness_FirstAttemptAfterResetPasses :
    afterReset.params.legal = true ∧ (afterReset.presented 0).rst = true ∧ (afterReset.presented 1).rst = false
      ∧ (afterReset.presented 2).rst = false ∧ ∃ ign, decode (afterReset.presented 1).tw = .attemptRead ign :=
  ⟨by decide, by decide, by decide, by decide, 0#30, by decide⟩
theorem witness_ElapsedTimeSurvivesAWrap :
    (5000#32 : Word).toNat ≤ (5000#32 : Word).toNat ∧ ¬ (0xFFFFFFFF#32 : Word).toNat ≤ (0#32 : Word).toNat := by decide
theorem witness_ProjectionsOfTheReading : Decoder.Inv tc ended ∧ ended.temp.toInt = -50 := ⟨inv_ended, by decide⟩
/-- A bench at clock 0 with a decoder, the line at 1. -/
def bench (d : Decoder) : Bench := Bench.mk 0#32 [] (machine d [])
/-- A word presented, a `STEP 2`, and a `WAIT_DONE` that ends at its first and at its second repetition. -/
theorem witness_HostProgramLinesPresentTheirWords :
    (∃ b', (bench ended).present (rdWord .reading) = some (0xFFCE027B#32, b'))
      ∧ (∃ b', (bench ended).presentMany (rdWord .status) (1 + 1) = some b')
      ∧ (∃ b', (bench ended).runLine 1 .waitDone = some ([0x00280116#32], b'))
      ∧ ∃ b', (bench (busyIn 9#4 0)).runLine 2 .waitDone = some ([0x00289115#32, 0x00280116#32], b') :=
  ⟨⟨_, rfl⟩, ⟨_, rfl⟩, ⟨_, rfl⟩, ⟨_, rfl⟩⟩

end Sys2Proof.Tests
end

/-! The statements of 10_state.md: where the fields of STATUS sit, and who writes the rate limiter's timestamp. -/

namespace Sys2Proof.Machine

/-! ## STATUS (10_state.md R31) -/

/-- STATUS with its width written as the sum of its fields' widths: the form the library's lemmas about `++` take. -/
theorem statusWord_eq_fields (d : Decoder) :
    statusWord d = BitVec.cast (show 10 + 6 + 4 + 4 + 3 + 1 + 1 + 1 + 1 + 1 = 32 from rfl)
      (0#10 ++ d.bitIdx ++ d.st ++ d.result ++ 0#3 ++ BitVec.ofBool d.attempted ++ BitVec.ofBool d.cmdErr
        ++ BitVec.ofBool d.valid ++ BitVec.ofBool d.done ++ BitVec.ofBool (busyFlag d)) := rfl

/-- The five one-bit fields of STATUS. -/
theorem statusWord_flags (d : Decoder) :
    (statusWord d).getLsbD 0 = busyFlag d ∧ (statusWord d).getLsbD 1 = d.done
      ∧ (statusWord d).getLsbD 2 = d.valid ∧ (statusWord d).getLsbD 3 = d.cmdErr
      ∧ (statusWord d).getLsbD 4 = d.attempted := by
  rw [statusWord_eq_fields]
  simp only [BitVec.getLsbD_cast, BitVec.getLsbD_append]
  simp

/-- The wider fields of STATUS: each is found by dropping the fields below it, then the fields above it. -/
theorem statusWord_fields (d : Decoder) :
    (statusWord d).extractLsb' 5 3 = 0#3 ∧ (statusWord d).extractLsb' 8 4 = d.result
      ∧ (statusWord d).extractLsb' 12 4 = d.st ∧ (statusWord d).extractLsb' 16 6 = d.bitIdx
      ∧ (statusWord d).extractLsb' 22 10 = 0#10 := by
  rw [statusWord_eq_fields]
  refine ⟨?_, ?_, ?_, ?_, ?_⟩ <;>
    simp (disch := decide) only [BitVec.extractLsb'_cast, BitVec.extractLsb'_append_eq_of_le,
      BitVec.extractLsb'_append_eq_of_add_le, BitVec.extractLsb'_eq_self, Nat.reduceSub]

/-- STATUS.BUSY is "not in READY" (10_state.md R31). -/
theorem busyFlag_eq_decide (d : Decoder) : busyFlag d = decide (d.st ≠ 0#4) := by
  unfold busyFlag
  by_cases h : d.st = 0#4 <;> simp [h, fsmCode]

/-- Settles O14: each field of the word is read off the concatenation STATUS is; the reset word and the ignored write
are evaluations. -/
theorem statusFieldsSitAtTheirBits : Obligations.StatusFieldsSitAtTheirBits := by
  unfold Obligations.StatusFieldsSitAtTheirBits
  refine ⟨rfl, fun _ _ => rfl, fun d => ?_⟩
  obtain ⟨hbusy, hdone, hvalid, herr, hattempted⟩ := statusWord_flags d
  obtain ⟨hgap, hresult, hst, hidx, htop⟩ := statusWord_fields d
  exact ⟨hbusy.trans (busyFlag_eq_decide d), hdone, hvalid, herr, hattempted, hgap, hresult, hst, hidx, htop⟩

/-! ## The timestamp (10_state.md R26) -/

/-- A bounded wait leaves alone whatever its success action, `finish` and a write of `cnt` leave alone. -/
theorem wait_keeps {α : Type} (g : Decoder → α) (target : Bool) (ceil : Nat) (fail : ResultCode)
    (k : Nat → Decoder → Decoder) (s : Decoder) (inp : Inputs) (d : Decoder)
    (hk : ∀ c e, g (k c e) = g e) (hfinish : g (finish fail d) = g d)
    (hcnt : ∀ n, g { d with cnt := n } = g d) : g (wait target ceil fail k s inp d) = g d := by
  rcases wait_cases target ceil fail k s inp d with ⟨-, h⟩ | ⟨-, -, h⟩ | ⟨-, -, h⟩
  · rw [h, hk, hcnt]
  · rw [h, hfinish]
  · rw [h, hcnt]

/-- What the rate limiter remembers: `last_ms`, and whether it holds a timestamp (10_state.md R26). -/
def Decoder.timestamp (d : Decoder) : Word × Bool := (d.lastMs, d.attempted)

/-- The model's rate check is the condition of 41_handshake.md R141. -/
theorem rateLimits_iff (d : Decoder) (nowMs : Word) : rateLimits d nowMs = true ↔ Limited d nowMs := by
  unfold rateLimits
  rw [Bool.and_eq_true, decide_eq_true_eq]
  rfl

/-- RATE_CHECK takes a timestamp exactly where it passes (41_handshake.md R141). -/
theorem rateCheck_timestamp (s : Decoder) (inp : Inputs) (d : Decoder) :
    (rateCheck s inp d).timestamp = if ¬ Limited s inp.nowMs then (inp.nowMs, true) else d.timestamp := by
  rcases rateCheck_cases s inp d with ⟨hlim, h⟩ | ⟨hlim, h⟩
  · rw [h, if_neg (not_not_intro ((rateLimits_iff s inp.nowMs).1 hlim))]; rfl
  · have hpass : ¬ Limited s inp.nowMs := by simp [← rateLimits_iff, hlim]
    rw [h, if_pos hpass]; rfl

/-- A bounded wait takes no timestamp where its success action takes none. -/
theorem wait_timestamp (target : Bool) (ceil : Nat) (fail : ResultCode) (k : Nat → Decoder → Decoder)
    (s : Decoder) (inp : Inputs) (d : Decoder) (hk : ∀ c e, (k c e).timestamp = e.timestamp) :
    (wait target ceil fail k s inp d).timestamp = d.timestamp :=
  wait_keeps Decoder.timestamp target ceil fail k s inp d hk rfl (fun _ => rfl)

/-- The capture of a bit takes no timestamp (42_bit_capture.md R162). -/
theorem captureBit_timestamp (p : Params) (s : Decoder) (c : Nat) (d : Decoder) :
    (captureBit p s c d).timestamp = d.timestamp := by
  unfold captureBit; split <;> rfl

/-- No rule but RATE_CHECK's takes a timestamp (10_state.md R26). -/
theorem runFsm_timestamp (f : Fsm) (hf : f ≠ .rateCheck) (p : Params) (s : Decoder) (inp : Inputs) (d : Decoder) :
    (runFsm f p s inp d).timestamp = d.timestamp := by
  cases f with
  | rateCheck => exact absurd rfl hf
  | ready => rfl
  | startPulse => simp only [runFsm, startPulse]; split <;> rfl
  | idleWait => exact wait_timestamp _ _ _ _ _ _ _ fun _ _ => rfl
  | ackLowWait => exact wait_timestamp _ _ _ _ _ _ _ fun _ _ => rfl
  | ackHighWait => exact wait_timestamp _ _ _ _ _ _ _ fun _ _ => rfl
  | bitSyncWait => exact wait_timestamp _ _ _ _ _ _ _ fun _ _ => rfl
  | bitHighWait => exact wait_timestamp _ _ _ _ _ _ _ fun c e => captureBit_timestamp p s c e
  | assemble => rfl
  | checksumVerify => rcases checksumVerify_cases s d with ⟨-, h⟩ | ⟨-, h⟩ <;> rw [runFsm, h] <;> rfl

/-- A transaction that writes nothing is no RESET_CLOCK_REF. -/
theorem rebasesClock_of_writesNothing (s : State) (h : writesNothing s.fetch = true) : rebasesClock s = false := by
  unfold rebasesClock
  revert h
  cases s.fetch <;> simp [writesNothing]

/-- In READY a host transaction takes a timestamp exactly where it is RESET_CLOCK_REF (40_command_interface.md
R115). -/
theorem exec_ready_timestamp (s u : State) (hr : s.dec.st = 0#4) (hu : exec s.fetch s = .next u) :
    u.dec.timestamp = if rebasesClock s = true then (s.inputs.nowMs, true) else s.dec.timestamp := by
  rcases exec_ready_dec s u hr hu with ⟨hw, hd⟩ | ⟨⟨g, hi⟩, hd⟩ | ⟨⟨g, hi⟩, hd⟩ | ⟨⟨g, hi⟩, hd⟩
  · rw [hd, rebasesClock_of_writesNothing s hw]; rfl
  · rw [hd, show rebasesClock s = false by simp [rebasesClock, hi]]; rfl
  · rw [hd, show rebasesClock s = true by simp [rebasesClock, hi]]; rfl
  · rw [hd, show rebasesClock s = false by simp [rebasesClock, hi]]; rfl

/-- Code 0 is READY's alone (10_state.md R21). -/
theorem fsmCode_ready_iff (f : Fsm) : fsmCode f = 0#4 ↔ f = .ready := by cases f <;> decide

/-- Code 1 is RATE_CHECK's alone (10_state.md R21). -/
theorem fsmCode_rateCheck_iff (f : Fsm) : fsmCode f = 1#4 ↔ f = .rateCheck := by cases f <;> decide

/-- Settles O39: by the FSM state of the step. In READY the host's transaction decides, in RATE_CHECK the rate check,
and in every other state nothing takes a timestamp. -/
theorem timestampHasTwoWriters : Obligations.TimestampHasTwoWriters := by
  unfold Obligations.TimestampHasTwoWriters
  intro s t h hrst
  change t.dec.timestamp = if _ then (s.inputs.nowMs, true) else s.dec.timestamp
  obtain ⟨f, hR, ⟨rfl, u, hu, rfl⟩ | ⟨hf, rfl⟩⟩ := step_shape s t h hrst
  · have hst : s.dec.st = 0#4 := hR.inState
    rw [after_dec, exec_ready_timestamp s u hst hu]
    simp [hst]
  · have hnotReady : s.dec.st ≠ 0#4 := by rwa [hR.inState, Ne, fsmCode_ready_iff]
    change (runFsm f s.params s.dec s.inputs s.dec).timestamp = _
    by_cases hrate : f = .rateCheck
    · subst hrate
      have hst : s.dec.st = 1#4 := hR.inState
      rw [runFsm, rateCheck_timestamp]
      exact if_congr (by simp [hst]) rfl rfl
    · have hnotRate : s.dec.st ≠ 1#4 := by rwa [hR.inState, Ne, fsmCode_rateCheck_iff]
      rw [runFsm_timestamp f hrate]
      simp [hnotReady, hnotRate]

end Sys2Proof.Machine

/-! The statements of 30_encoding.md: every transaction word selects the one row of the opcode map that names its
instruction. -/

namespace Sys2Proof.Machine

/-! ## The opcode map (30_encoding.md R83)

The map reads six bits of a word: the write strobe, the word index and, in a command, CMD. So does the mnemonic the
decoder answers. What R83 says of all 2^36 words it therefore says of the 64 words in which the other bits are 0. -/

/-- The bits of a word that the mask of some row reads: `TW[35:32]` and `TW[1:0]` (30_encoding.md R83). -/
def opcodeBits : TxWord := 0xF00000003#36

/-- The word of a strobe and word index `head` and a command `cmd` in which every bit that no row reads is 0. -/
def selectorWord (head : BitVec 4) (cmd : BitVec 2) : TxWord := head ++ 0#30 ++ cmd

/-- Masking the bits that no row reads leaves one of the 64 selector words. -/
theorem and_opcodeBits (w : TxWord) :
    w &&& opcodeBits = selectorWord (w.extractLsb' 32 4) (w.extractLsb' 0 2) := by
  have htop : w.extractLsb' 32 4 ++ w.extractLsb' 2 30 = w.extractLsb' 2 34 :=
    BitVec.extractLsb'_append_extractLsb'_eq_extractLsb' rfl
  have hall : w.extractLsb' 2 34 ++ w.extractLsb' 0 2 = w.extractLsb' 0 36 :=
    BitVec.extractLsb'_append_extractLsb'_eq_extractLsb' rfl
  have hw : w.extractLsb' 32 4 ++ w.extractLsb' 2 30 ++ w.extractLsb' 0 2 = w := by
    rw [htop, hall, BitVec.extractLsb'_eq_self]
  have hbits : opcodeBits = BitVec.allOnes 4 ++ 0#30 ++ BitVec.allOnes 2 := rfl
  calc w &&& opcodeBits
      = (w.extractLsb' 32 4 ++ w.extractLsb' 2 30 ++ w.extractLsb' 0 2)
          &&& (BitVec.allOnes 4 ++ 0#30 ++ BitVec.allOnes 2) := by rw [hw, hbits]
    _ = selectorWord (w.extractLsb' 32 4) (w.extractLsb' 0 2) := by
        rw [BitVec.and_append, BitVec.and_append, BitVec.and_allOnes, BitVec.and_allOnes, BitVec.and_zero]
        rfl

/-! ### Which bits the rows read -/

/-- No row's mask reads a bit outside `opcodeBits`. -/
theorem opcodeBits_and_mask : ∀ r ∈ opcodeMap, opcodeBits &&& r.mask = r.mask := by decide

/-- A row is selected by a word exactly when it is selected by the word's opcode bits. -/
theorem selects_and_opcodeBits (r : OpcodeRow) (hr : r ∈ opcodeMap) (w : TxWord) :
    r.selects (w &&& opcodeBits) = r.selects w := by
  rw [OpcodeRow.selects, BitVec.and_assoc, opcodeBits_and_mask r hr, OpcodeRow.selects]

/-! ### Which bits the decoder's mnemonic reads -/

/-- The mnemonic of a command does not depend on the ignored bits (30_encoding.md R84). -/
theorem decodeCommand_mnemonic (cmd : BitVec 2) (g h : BitVec 30) :
    (decodeCommand cmd g).mnemonic = (decodeCommand cmd h).mnemonic := by
  unfold decodeCommand
  split <;> rfl

/-- The mnemonic of a read does not depend on the ignored bits (30_encoding.md R81 format RD). -/
theorem decodeRead_mnemonic (addr : WordIdx) (g h : BitVec 32) :
    (decodeRead addr g).mnemonic = (decodeRead addr h).mnemonic := by
  unfold decodeRead
  split <;> rfl

/-- The mnemonic of a write depends on its data through CMD only (30_encoding.md R81, R84). -/
theorem decodeWrite_mnemonic (addr : WordIdx) (a b : Word) (hcmd : a.extractLsb' 0 2 = b.extractLsb' 0 2) :
    (decodeWrite addr a).mnemonic = (decodeWrite addr b).mnemonic := by
  unfold decodeWrite
  split
  · rw [hcmd]
    exact decodeCommand_mnemonic _ _ _
  all_goals rfl

/-- Masking the bits that no row reads changes neither the strobe, nor the word index, nor CMD. -/
theorem fields_and_opcodeBits (w : TxWord) :
    (w &&& opcodeBits).getLsbD 35 = w.getLsbD 35
      ∧ (w &&& opcodeBits).extractLsb' 32 3 = w.extractLsb' 32 3
      ∧ ((w &&& opcodeBits).extractLsb' 0 32).extractLsb' 0 2 = (w.extractLsb' 0 32).extractLsb' 0 2 := by
  refine ⟨?_, ?_, ?_⟩
  · rw [BitVec.getLsbD_and, show opcodeBits.getLsbD 35 = true from rfl, Bool.and_true]
  · rw [BitVec.extractLsb'_and, show opcodeBits.extractLsb' 32 3 = BitVec.allOnes 3 from rfl, BitVec.and_allOnes]
  · rw [BitVec.extractLsb'_and, BitVec.extractLsb'_and,
      show (opcodeBits.extractLsb' 0 32).extractLsb' 0 2 = BitVec.allOnes 2 from rfl, BitVec.and_allOnes]

/-- The decoder's mnemonic for a word is its mnemonic for the word's opcode bits. -/
theorem decode_mnemonic_and_opcodeBits (w : TxWord) :
    (decode (w &&& opcodeBits)).mnemonic = (decode w).mnemonic := by
  obtain ⟨hstrobe, haddr, hcmd⟩ := fields_and_opcodeBits w
  unfold decode
  rw [hstrobe, haddr]
  split
  · exact decodeWrite_mnemonic _ _ _ hcmd
  · exact decodeRead_mnemonic _ _ _

/-! ### The 64 selector words -/

/-- R83 on the words in which every bit that no row reads is 0. -/
theorem selectorWord_selects_its_row : ∀ (head : BitVec 4) (cmd : BitVec 2),
    (opcodeMap.filter fun r => r.selects (selectorWord head cmd)).map (fun r => r.mnemonic)
      = [(decode (selectorWord head cmd)).mnemonic] := by decide

/-- Settles O3: rows and decoder read the opcode bits only, and on those the map is a table of 64 words. -/
theorem everyWordSelectsExactlyItsRow : Obligations.EveryWordSelectsExactlyItsRow := by
  unfold Obligations.EveryWordSelectsExactlyItsRow
  intro w
  have hrows : (opcodeMap.filter fun r => r.selects w)
      = opcodeMap.filter fun r => r.selects (w &&& opcodeBits) :=
    List.filter_congr fun r hr => (selects_and_opcodeBits r hr w).symm
  rw [hrows, ← decode_mnemonic_and_opcodeBits w, and_opcodeBits]
  exact selectorWord_selects_its_row _ _

end Sys2Proof.Machine

/-! The statements of 40_command_interface.md: what each command, ignored write and word without a register does, and
that the host transaction of a step and its dispatch stay apart. -/

namespace Sys2Proof.Machine

/-! ## The formats are decoded field by field (30_encoding.md R81, R84) -/

/-- Format CMD is the write of word 0 whose data ends in CMD. -/
theorem encodeCommand_eq_write (ign : BitVec 30) (cmd : BitVec 2) :
    encodeCommand ign cmd = encodeIgnoredWrite 0#3 (ign ++ cmd) :=
  BitVec.append_assoc (x₁ := 1#1 ++ 0#3) (x₂ := ign) (x₃ := cmd)

/-- A register access word, taken apart again: write strobe, word index, data (30_encoding.md R80). -/
theorem access_fields (we : BitVec 1) (addr : WordIdx) (data : Word) :
    (BitVec.cast (show 1 + 3 + 32 = 36 from rfl) (we ++ addr ++ data)).getLsbD 35 = we.getLsbD 0
      ∧ (BitVec.cast (show 1 + 3 + 32 = 36 from rfl) (we ++ addr ++ data)).extractLsb' 32 3 = addr
      ∧ (BitVec.cast (show 1 + 3 + 32 = 36 from rfl) (we ++ addr ++ data)).extractLsb' 0 32 = data := by
  refine ⟨by rw [access_getLsbD]; rfl, ?_, ?_⟩ <;>
    simp (disch := decide) only [BitVec.extractLsb'_cast, BitVec.extractLsb'_append_eq_of_le,
      BitVec.extractLsb'_append_eq_of_add_le, BitVec.extractLsb'_eq_self, Nat.reduceSub]

/-- Format RD decodes to the read of its word. -/
theorem decode_encodeRead (addr : WordIdx) (ign : BitVec 32) :
    decode (encodeRead addr ign) = decodeRead addr ign := by
  obtain ⟨hwe, haddr, hdata⟩ := access_fields 0#1 addr ign
  change decode (BitVec.cast rfl (0#1 ++ addr ++ ign)) = _
  rw [decode, hwe, haddr, hdata]
  rfl

/-- Format WRI decodes to the write of its word. -/
theorem decode_encodeIgnoredWrite (addr : WordIdx) (data : Word) :
    decode (encodeIgnoredWrite addr data) = decodeWrite addr data := by
  obtain ⟨hwe, haddr, hdata⟩ := access_fields 1#1 addr data
  change decode (BitVec.cast rfl (1#1 ++ addr ++ data)) = _
  rw [decode, hwe, haddr, hdata]
  rfl

/-- Format CMD decodes to its command. -/
theorem decode_encodeCommand (ign : BitVec 30) (cmd : BitVec 2) :
    decode (encodeCommand ign cmd) = decodeCommand cmd ign := by
  have hcmd : (ign ++ cmd).extractLsb' 0 2 = cmd := by
    rw [BitVec.extractLsb'_append_eq_of_add_le (by decide), BitVec.extractLsb'_eq_self]
  have hign : (ign ++ cmd).extractLsb' 2 30 = ign := by
    rw [BitVec.extractLsb'_append_eq_of_le (by decide), BitVec.extractLsb'_eq_self]
  rw [encodeCommand_eq_write, decode_encodeIgnoredWrite]
  change decodeCommand ((ign ++ cmd).extractLsb' 0 2) ((ign ++ cmd).extractLsb' 2 30) = _
  rw [hcmd, hign]

/-! ## What the transactions leave (40_command_interface.md R112 to R119) -/

/-- Presenting the ports of a step, with the port's word named as the statements name it (R119). -/
theorem present_eq (s : State) (a : WordIdx) :
    s.present a = { s with seen := portsWith s.dec (regRead s.dec a) } := rfl

/-- A transaction that writes nothing leaves the machine with the ports of its word. -/
theorem exec_of_writesNothing (i : Instr) (s : State) (h : writesNothing i = true) :
    exec i s = .next { s with seen := portsWith s.dec (regRead s.dec i.addr) } := by
  obtain ⟨d, hd, ⟨-, rfl⟩ | ⟨g, rfl, -⟩ | ⟨g, rfl, -⟩ | ⟨g, rfl, -⟩⟩ := exec_cases i s
  · exact hd
  all_goals cases h

/-- A command is accepted in READY. -/
theorem acceptIfReady_of_ready (accept : Decoder → Decoder) (d : Decoder) (h : d.st = 0#4) :
    acceptIfReady accept d = accept d := if_pos h

/-- A command is rejected while busy. -/
theorem acceptIfReady_of_busy (accept : Decoder → Decoder) (d : Decoder) (h : d.st ≠ 0#4) :
    acceptIfReady accept d = rejectCommand d := if_neg h

/-- In READY, ATTEMPT_READ makes the writes of AcceptAttempt (R114). -/
theorem exec_attemptRead_of_ready (ign : BitVec 30) (s : State) (hr : s.dec.st = 0#4) :
    exec (.attemptRead ign) s = .next ((s.present 0#3).withDec (acceptAttempt s.dec)) := by
  rw [← acceptIfReady_of_ready acceptAttempt s.dec hr]
  rfl

/-- In READY, RESET_CLOCK_REF makes the writes of AcceptClockRef (R115). -/
theorem exec_resetClockRef_of_ready (ign : BitVec 30) (s : State) (hr : s.dec.st = 0#4) :
    exec (.resetClockRef ign) s
      = .next ((s.present 0#3).withDec (acceptClockRef s.inputs.nowMs s.dec)) := by
  rw [← acceptIfReady_of_ready (acceptClockRef s.inputs.nowMs) s.dec hr]
  rfl

/-- While busy, ATTEMPT_READ and RESET_CLOCK_REF only set `cmd_err` (R117). -/
theorem exec_command_of_busy (i : Instr) (ign : BitVec 30) (s : State)
    (hi : i = .attemptRead ign ∨ i = .resetClockRef ign) (hb : s.dec.st ≠ 0#4) :
    exec i s = .next ((s.present 0#3).withDec (rejectCommand s.dec)) := by
  rcases hi with rfl | rfl
  · rw [← acceptIfReady_of_busy acceptAttempt s.dec hb]; rfl
  · rw [← acceptIfReady_of_busy (acceptClockRef s.inputs.nowMs) s.dec hb]; rfl

/-! ## NOP, the reserved command, the ignored writes and the words that read 0 -/

/-- Settles O6: command code 0 decodes to NOP, one of the transactions that write nothing. -/
theorem nopWritesNothing : Obligations.NopWritesNothing := by
  unfold Obligations.NopWritesNothing
  intro ign s
  exact ⟨decode_encodeCommand ign 0#2, exec_of_writesNothing (.nop ign) s rfl⟩

/-- Settles O9: command code 3 decodes to the reserved command, whose meaning is the rejection of a command. -/
theorem reservedCommandSetsCmdErr : Obligations.ReservedCommandSetsCmdErr := by
  unfold Obligations.ReservedCommandSetsCmdErr
  intro ign s
  exact ⟨decode_encodeCommand ign 3#2, rfl⟩

/-- The words 4 to 7, one by one. -/
theorem wordIdx_of_four_le : ∀ idx : WordIdx, 4 ≤ idx.toNat → idx = 4#3 ∨ idx = 5#3 ∨ idx = 6#3 ∨ idx = 7#3 := by
  decide

/-- Settles O11: a write decodes by its word, and the ignored writes are among the transactions that write nothing. -/
theorem ignoredWritesWriteNothing : Obligations.IgnoredWritesWriteNothing := by
  unfold Obligations.IgnoredWritesWriteNothing
  intro idx data s
  refine ⟨decode_encodeIgnoredWrite 1#3 data, ?_, ?_, exec_of_writesNothing (.wrIgnored1 data) s rfl,
    exec_of_writesNothing (.wrIgnored23 idx data) s rfl, exec_of_writesNothing (.wrIgnored47 idx data) s rfl⟩
  · rintro (rfl | rfl) <;> exact decode_encodeIgnoredWrite _ data
  · intro hidx
    obtain rfl | rfl | rfl | rfl := wordIdx_of_four_le idx hidx <;> exact decode_encodeIgnoredWrite _ data

/-- Settles O12: a read decodes by its word, writes nothing, and `RegRead` is 0 at the words 0, 6 and 7. -/
theorem ctrlAndUnmappedReadZero : Obligations.CtrlAndUnmappedReadZero := by
  unfold Obligations.CtrlAndUnmappedReadZero
  intro idx ign s
  refine ⟨decode_encodeRead 0#3 ign, exec_of_writesNothing (.rdCtrl ign) s rfl, ?_⟩
  rintro (rfl | rfl)
  · exact ⟨decode_encodeRead 6#3 ign, exec_of_writesNothing (.rdUnmapped 6#3 ign) s rfl⟩
  · exact ⟨decode_encodeRead 7#3 ign, exec_of_writesNothing (.rdUnmapped 7#3 ign) s rfl⟩

/-! ## The dispatch of a step (40_command_interface.md R111, R121) -/

/-- The rule of an FSM state reads the line and the clock, and no other input. -/
theorem runFsm_inputs (f : Fsm) (p : Params) (s d : Decoder) (i j : Inputs) (hline : i.line = j.line)
    (hnow : i.nowMs = j.nowMs) : runFsm f p s i d = runFsm f p s j d := by
  cases f with
  | rateCheck => simp only [runFsm, rateCheck, hnow]
  | idleWait => simp only [runFsm, idleWait, wait, hline]
  | ackLowWait => simp only [runFsm, ackLowWait, wait, hline]
  | ackHighWait => simp only [runFsm, ackHighWait, wait, hline]
  | bitSyncWait => simp only [runFsm, bitSyncWait, wait, hline]
  | bitHighWait => simp only [runFsm, bitHighWait, wait, hline]
  | ready | startPulse | assemble | checksumVerify => rfl

/-- Dispatch reads the line and the clock, and no other input. -/
theorem dispatch_inputs (p : Params) (s d : Decoder) (i j : Inputs) (hline : i.line = j.line)
    (hnow : i.nowMs = j.nowMs) : dispatch p s i d = dispatch p s j d := by
  simp only [dispatch, runFsm_inputs _ p s d i j hline hnow]

/-- The rule of an FSM state leaves `cmd_err` as it finds it. -/
theorem runFsm_keeps_cmdErr (f : Fsm) (p : Params) (s d : Decoder) (inp : Inputs) :
    (runFsm f p s inp d).cmdErr = d.cmdErr := by
  have h := congrArg Decoder.cmdErr (runFsm_cmdErr f p s d inp d.cmdErr)
  exact h

/-- Where the FSM code and the result code exist, Dispatch runs the state's rule, whatever decoder it writes. -/
theorem dispatch_of_codes (p : Params) (s d : Decoder) (inp : Inputs) (f : Fsm) (hf : fsmOf s.st = some f)
    (hres : resultCodeExists s.result = true) : dispatch p s inp d = .ok (runFsm f p s inp d) := by
  simp only [dispatch, hf, hres, if_true]

/-- Dispatch neither reads nor writes `cmd_err`, and whether it faults does not depend on it. -/
theorem dispatch_cmdErr (p : Params) (s d : Decoder) (inp : Inputs) (e : Bool) :
    dispatch p s inp { d with cmdErr := e }
      = (dispatch p s inp d).map fun d' => { d' with cmdErr := e } := by
  unfold dispatch
  split
  · rfl
  · rw [runFsm_cmdErr]
    split <;> rfl

/-! ## Commands while busy (40_command_interface.md R117) -/

/-- The word presented in the coming step is the one fetched (log 1). -/
theorem withTransaction_fetch (s : State) (w : TxWord) : (s.withTransaction w).fetch = decode w :=
  congrArg decode (withTw_tw (s.presented 0) w)

/-- With legal parameters a presented transaction is executed and its step ended. -/
theorem step_withTransaction (s u : State) (w : TxWord) (hlegal : s.params.legal = true)
    (hu : exec (decode w) (s.withTransaction w) = .next u) :
    step (s.withTransaction w) = endStep (s.withTransaction w) u := by
  have hrst : (s.withTransaction w).inputs.rst = false := rfl
  simp only [step, withTransaction_params, hlegal, hrst, withTransaction_fetch, hu, if_true, if_false,
    Bool.false_eq_true]

/-- With illegal parameters every step is refused (log 7). -/
theorem step_of_illegal (s : State) (hillegal : s.params.legal ≠ true) : step s = .refused .illegalParams :=
  if_neg hillegal

/-- Ending a step whose transaction was rejected is ending it after any transaction that wrote nothing at the same
word, with `cmd_err` set in what is left. -/
theorem endStep_rejectCommand (s : State) (v w : TxWord) (a : WordIdx) :
    endStep (s.withTransaction v) (((s.withTransaction v).present a).withDec (rejectCommand s.dec))
      = mapNext (fun t => { t with dec := { t.dec with cmdErr := true } })
          (endStep (s.withTransaction w) ((s.withTransaction w).present a)) := by
  have hdispatch : dispatch s.params s.dec (s.withTransaction v).inputs (rejectCommand s.dec)
      = (dispatch s.params s.dec (s.withTransaction w).inputs s.dec).map fun d => { d with cmdErr := true } := by
    rw [rejectCommand, dispatch_cmdErr,
      dispatch_inputs _ _ _ (s.withTransaction v).inputs (s.withTransaction w).inputs rfl rfl]
  simp only [endStep, withTransaction_params, withTransaction_dec, withDec_dec, present_dec, hdispatch]
  cases dispatch s.params s.dec (s.withTransaction w).inputs s.dec with
  | ok d => rfl
  | error f => rfl

/-- Settles O10: the rejected command and the NOP leave decoders that differ in `cmd_err` alone, and the dispatch that
follows neither reads nor writes it. -/
theorem commandWhileBusyIsRejected : Obligations.CommandWhileBusyIsRejected := by
  unfold Obligations.CommandWhileBusyIsRejected
  intro i ign s hi hb
  refine ⟨exec_command_of_busy i ign s hi hb, ?_⟩
  by_cases hlegal : s.params.legal = true
  · have hdecode : decode (encode i) = i := by
      rcases hi with rfl | rfl <;> exact decode_encodeCommand ign _
    have hcommand : exec (decode (encode i)) (s.withTransaction (encode i))
        = .next (((s.withTransaction (encode i)).present 0#3).withDec (rejectCommand s.dec)) := by
      rw [hdecode]
      exact exec_command_of_busy i ign _ hi hb
    have hnop : exec (decode (encode (.nop 0#30))) (s.withTransaction (encode (.nop 0#30)))
        = .next ((s.withTransaction (encode (.nop 0#30))).present 0#3) := by
      rw [show decode (encode (.nop 0#30)) = .nop 0#30 from decode_encodeCommand 0#30 0#2]
      exact exec_of_writesNothing (.nop 0#30) _ rfl
    rw [step_withTransaction s _ _ hlegal hcommand, step_withTransaction s _ _ hlegal hnop]
    exact endStep_rejectCommand s _ _ 0#3
  · rw [step_of_illegal (s.withTransaction (encode i)) hlegal,
      step_of_illegal (s.withTransaction (encode (.nop 0#30))) hlegal]
    rfl

/-! ## The host transaction and the dispatch (40_command_interface.md R111) -/

/-- While busy a host transaction writes at most `cmd_err`. -/
theorem exec_busy_frame (i : Instr) (s t : State) (h : exec i s = .next t) (hb : s.dec.st ≠ 0#4) :
    t.dec = { s.dec with cmdErr := t.dec.cmdErr } := by
  obtain ⟨d, hd, hcases⟩ := exec_cases i s
  rw [hd] at h
  cases h
  rcases hcases with ⟨-, rfl⟩ | ⟨g, -, rfl⟩ | ⟨g, -, rfl⟩ | ⟨g, -, rfl⟩
  · rfl
  · rw [acceptIfReady_of_busy _ _ hb]; rfl
  · rw [acceptIfReady_of_busy _ _ hb]; rfl
  · rfl

/-- In READY a host transaction writes at most the fields of AcceptAttempt and AcceptClockRef. -/
theorem exec_ready_frame (i : Instr) (s t : State) (h : exec i s = .next t) (hr : s.dec.st = 0#4) :
    t.dec = { s.dec with st := t.dec.st, done := t.dec.done, cmdErr := t.dec.cmdErr,
                         lastMs := t.dec.lastMs, attempted := t.dec.attempted } := by
  obtain ⟨d, hd, hcases⟩ := exec_cases i s
  rw [hd] at h
  cases h
  rcases hcases with ⟨-, rfl⟩ | ⟨g, -, rfl⟩ | ⟨g, -, rfl⟩ | ⟨g, -, rfl⟩
  · rfl
  · rw [acceptIfReady_of_ready _ _ hr]; rfl
  · rw [acceptIfReady_of_ready _ _ hr]; rfl
  · rfl

/-- Settles O17: the two frames of the host transaction, and the FSM state's rule, which is the identity in READY and
commutes with a write of `cmd_err` in every state. -/
theorem hostWriteAndDispatchWriteApart : Obligations.HostWriteAndDispatchWriteApart := by
  unfold Obligations.HostWriteAndDispatchWriteApart
  intro i s t ht
  refine ⟨exec_busy_frame i s t ht, exec_ready_frame i s t ht, fun d hd => ?_⟩
  obtain ⟨f, hf, hres, rfl⟩ := dispatch_ok _ _ _ _ _ hd
  rw [dispatch_of_codes _ _ t.dec _ f hf hres]
  by_cases hr : s.dec.st = 0#4
  · obtain rfl : f = .ready := by rw [← fsmCode_ready_iff, ← fsmOf_eq_some _ _ hf, hr]
    rw [if_pos hr]
    exact ⟨fun _ => rfl, rfl, rfl⟩
  · refine ⟨fun h => absurd h hr, runFsm_keeps_cmdErr f _ _ _ _, ?_⟩
    rw [if_neg hr, ← runFsm_cmdErr, ← exec_busy_frame i s t ht hr]

/-! ## READY (40_command_interface.md R122) -/

/-- A step in READY leaves the decoder that its host transaction leaves. -/
theorem step_ready_of_exec (s u : State) (hR : s.Runs 0#4) (hu : exec s.fetch s = .next u) :
    step s = .next (s.after u.dec) := by
  obtain ⟨v, hv, hstep⟩ := step_of_ready s hR
  rw [hu] at hv
  cases hv
  exact hstep

/-- The step starts an attempt exactly where it presents ATTEMPT_READ. -/
theorem startsAttempt_iff (s : State) : startsAttempt s = true ↔ ∃ g, s.fetch = .attemptRead g := by
  unfold startsAttempt
  cases s.fetch <;> simp

/-- The step re-bases the clock exactly where it presents RESET_CLOCK_REF. -/
theorem rebasesClock_iff (s : State) : rebasesClock s = true ↔ ∃ g, s.fetch = .resetClockRef g := by
  unfold rebasesClock
  cases s.fetch <;> simp

/-- Settles O23: a step in READY leaves what its transaction leaves, and that is read off the transaction. -/
theorem readyDoesNothingOfItsOwn : Obligations.ReadyDoesNothingOfItsOwn := by
  unfold Obligations.ReadyDoesNothingOfItsOwn
  intro s hR
  refine ⟨fun hw => ?_, fun hstart => ?_,
    fun hrebase => ?_, fun g hg => ?_⟩
  · exact step_ready_of_exec s (s.present s.fetch.addr) hR (exec_of_writesNothing s.fetch s hw)
  · obtain ⟨g, hg⟩ := (startsAttempt_iff s).1 hstart
    have hexec := exec_attemptRead_of_ready g s hR.inState
    exact step_ready_of_exec s ((s.present 0#3).withDec (acceptAttempt s.dec)) hR (by rw [hg, hexec])
  · obtain ⟨g, hg⟩ := (rebasesClock_iff s).1 hrebase
    have hexec := exec_resetClockRef_of_ready g s hR.inState
    exact step_ready_of_exec s ((s.present 0#3).withDec (acceptClockRef s.inputs.nowMs s.dec)) hR
      (by rw [hg, hexec])
  · exact step_ready_of_exec s ((s.present 0#3).withDec (rejectCommand s.dec)) hR (by rw [hg]; rfl)

end Sys2Proof.Machine

/-! The statements of 41_handshake.md: one step of each handshake state, a handshake that succeeds, and the gates at
which one fails. -/

namespace Sys2Proof.Machine

/-! ## One step of a bounded wait (41_handshake.md R140) -/

/-- The rule of the FSM state `f` is `WAIT(target, ceil, fail, act)`. The success action may read the state before the
step, as BIT_HIGH_WAIT's does. -/
structure Waits (p : Params) (f : Fsm) (target : Bool) (ceil : Nat) (fail : ResultCode)
    (act : Decoder → Nat → Decoder → Decoder) : Prop where
  busy : f ≠ .ready
  rule : ∀ d inp, runFsm f p d inp d = wait target ceil fail (act d) d inp d

/-- IDLE_WAIT is a bounded wait for high (41_handshake.md R142). -/
theorem waits_idleWait (p : Params) :
    Waits p .idleWait true p.idleCeil .busHung (fun _ _ => goto .startPulse) := ⟨by decide, fun _ _ => rfl⟩

/-- ACK_LOW_WAIT is a bounded wait for low (41_handshake.md R144). -/
theorem waits_ackLowWait (p : Params) :
    Waits p .ackLowWait false p.ackLowCeil .notPresent (fun _ _ => goto .ackHighWait) :=
  ⟨by decide, fun _ _ => rfl⟩

/-- ACK_HIGH_WAIT is a bounded wait for high that begins the capture (41_handshake.md R145). -/
theorem waits_ackHighWait (p : Params) :
    Waits p .ackHighWait true p.ackHighCeil .ackTooLong
      (fun _ _ d => goto .bitSyncWait { d with bitIdx := 0#6, frame := 0#41 }) := ⟨by decide, fun _ _ => rfl⟩

section
variable {p : Params} {f : Fsm} {target : Bool} {ceil : Nat} {fail : ResultCode}
  {act : Decoder → Nat → Decoder → Decoder}

/-- A poll that samples the target. -/
theorem Waits.runFsm_of_target (hW : Waits p f target ceil fail act) (d : Decoder) (inp : Inputs)
    (hline : inp.line = target) : runFsm f p d inp d = act d (d.cnt + 1) { d with cnt := 0 } := by
  rw [hW.rule, wait, if_pos hline]

/-- The last poll, where it samples the other level. -/
theorem Waits.runFsm_of_ceiling (hW : Waits p f target ceil fail act) (d : Decoder) (inp : Inputs)
    (hline : inp.line = !target) (hceil : ceil ≤ d.cnt + 1) : runFsm f p d inp d = finish fail d := by
  rw [hW.rule, wait, if_neg (by simp [hline]), if_pos hceil]

/-- An earlier poll that samples the other level. -/
theorem Waits.runFsm_of_other (hW : Waits p f target ceil fail act) (d : Decoder) (inp : Inputs)
    (hline : inp.line = !target) (hceil : d.cnt + 1 < ceil) :
    runFsm f p d inp d = { d with cnt := d.cnt + 1 } := by
  rw [hW.rule, wait, if_neg (by simp [hline]), if_neg (Nat.not_le_of_lt hceil)]

/-- The three outcomes of a step in a waiting state, each as the whole next state. -/
theorem Waits.step {s : State} (hW : Waits s.params f target ceil fail act) (hR : s.Runs (fsmCode f)) :
    (s.inputs.line = target →
        step s = .next (s.after { act s.dec (s.dec.cnt + 1) { s.dec with cnt := 0 } with cmdErr := s.errAfter }))
      ∧ (s.inputs.line = (!target) → ceil ≤ s.dec.cnt + 1 →
        step s = .next (s.after { finish fail s.dec with cmdErr := s.errAfter }))
      ∧ (s.inputs.line = (!target) → s.dec.cnt + 1 < ceil →
        step s = .next (s.after { s.dec with cnt := s.dec.cnt + 1, cmdErr := s.errAfter })) := by
  rw [step_of_busy s f hR hW.busy]
  refine ⟨fun hline => ?_, fun hline hceil => ?_, fun hline hceil => ?_⟩
  · rw [hW.runFsm_of_target _ _ hline]
  · rw [hW.runFsm_of_ceiling _ _ hline hceil]
  · rw [hW.runFsm_of_other _ _ hline hceil]

end

/-- Settles O25: IDLE_WAIT is a bounded wait for high. -/
theorem idleWaitPolls : Obligations.IdleWaitPolls := by
  unfold Obligations.IdleWaitPolls
  intro s hR
  exact (waits_idleWait s.params).step hR

/-- Settles O27: ACK_LOW_WAIT is a bounded wait for low. -/
theorem ackLowWaitPolls : Obligations.AckLowWaitPolls := by
  unfold Obligations.AckLowWaitPolls
  intro s hR
  exact (waits_ackLowWait s.params).step hR

/-- Settles O28: ACK_HIGH_WAIT is a bounded wait for high whose success action empties the frame. -/
theorem ackHighWaitPolls : Obligations.AckHighWaitPolls := by
  unfold Obligations.AckHighWaitPolls
  intro s hR
  exact (waits_ackHighWait s.params).step hR

/-! ## The rate check (41_handshake.md R141) -/

/-- A rate check that limits ends the attempt. -/
theorem rateCheck_of_limited (s d : Decoder) (inp : Inputs) (h : Limited s inp.nowMs) :
    rateCheck s inp d = finish .rateLimited d := by
  rw [rateCheck, if_pos ((rateLimits_iff s inp.nowMs).2 h)]

/-- A rate check that passes records the attempt. -/
theorem rateCheck_of_not_limited (s d : Decoder) (inp : Inputs) (h : ¬ Limited s inp.nowMs) :
    rateCheck s inp d = goto .idleWait { d with lastMs := inp.nowMs, attempted := true, cnt := 0 } := by
  rw [rateCheck, if_neg (mt (rateLimits_iff s inp.nowMs).1 h)]

/-- Settles O24: the step runs RATE_CHECK's rule, by whether it limits. -/
theorem rateCheckLimitsOrRecords : Obligations.RateCheckLimitsOrRecords := by
  unfold Obligations.RateCheckLimitsOrRecords
  intro s hR
  rw [step_of_busy s .rateCheck hR (by decide), runFsm]
  refine ⟨fun hlimited => ?_, fun hpasses => ?_⟩
  · rw [rateCheck_of_limited s.dec s.dec s.inputs hlimited]; rfl
  · rw [rateCheck_of_not_limited s.dec s.dec s.inputs hpasses]; rfl

/-! ## Runs that are busy

While busy the host can write `cmd_err` and nothing else, and no rule reads it. So a run is followed on the decoder
without `cmd_err`, with the environment's schedule read at the number of the step. -/

/-- Every step moves the schedule on by one and keeps the parameters. -/
theorem step_environment (s t : State) (h : step s = .next t) :
    t.params = s.params ∧ ∀ n, t.presented n = s.presented (n + 1) := by
  obtain ⟨-, ⟨-, rfl⟩ | ⟨-, u, d, hu, -, rfl⟩⟩ := step_next_cases s t h
  · exact ⟨rfl, fun n => presented_next _ _ n rfl rfl⟩
  · obtain ⟨e, he, -⟩ := exec_cases s.fetch s
    rw [he] at hu
    cases hu
    exact ⟨rfl, fun n => presented_next _ _ n rfl rfl⟩

/-- A run of `n` steps moves the schedule on by `n` and keeps the parameters. -/
theorem runSteps_environment (n : Nat) (s t : State) (h : runSteps n s = .next t) :
    t.params = s.params ∧ ∀ m, t.presented m = s.presented (n + m) := by
  induction n generalizing s with
  | zero => cases h; exact ⟨rfl, fun m => by rw [Nat.zero_add]⟩
  | succ n ih =>
    simp only [runSteps] at h
    cases hs : step s with
    | next u =>
      rw [hs] at h
      obtain ⟨hparams, hpresented⟩ := step_environment s u hs
      obtain ⟨ihparams, ihpresented⟩ := ih u h
      refine ⟨ihparams.trans hparams, fun m => ?_⟩
      rw [ihpresented, hpresented, Nat.add_right_comm]
    | fault r => rw [hs] at h; cases h
    | refused r => rw [hs] at h; cases h

/-- The rule of a state sees the line as the environment presents it: where the decoder drives it, it is not read. -/
theorem runFsm_of_presented (f : Fsm) (p : Params) (s : State) (d : Decoder) (hst : s.dec.st = fsmCode f) :
    runFsm f p s.dec s.inputs d = runFsm f p s.dec (s.presented 0) d := by
  by_cases hf : f = .startPulse
  · subst hf; rfl
  · have hline : s.inputs.line = (s.presented 0).line := by
      have hdrive : lineDriveLow s.dec = false := by
        rw [lineDriveLow, hst]
        cases f with
        | startPulse => exact absurd rfl hf
        | _ => rfl
      simp [State.inputs, hdrive]
    exact runFsm_inputs f p s.dec d _ _ hline rfl

/-- No rule reads `cmd_err` (40_command_interface.md R111). -/
theorem runFsm_reads_no_cmdErr (f : Fsm) (p : Params) (s d : Decoder) (inp : Inputs) (e : Bool) :
    runFsm f p { s with cmdErr := e } inp d = runFsm f p s inp d := by
  cases f <;> rfl

/-- The result codes are 0 to 8 (60_exceptions.md R220). -/
theorem resultCode_toNat_le (c : ResultCode) : (resultCode c).toNat ≤ 8 := by cases c <;> decide

/-- A bounded wait leaves a result code that exists. -/
theorem wait_result_le (target : Bool) (ceil : Nat) (fail : ResultCode) (k : Nat → Decoder → Decoder)
    (s : Decoder) (inp : Inputs) (d : Decoder) (hk : ∀ c e, (k c e).result = e.result)
    (hd : d.result.toNat ≤ 8) : (wait target ceil fail k s inp d).result.toNat ≤ 8 := by
  rcases wait_cases target ceil fail k s inp d with ⟨-, h⟩ | ⟨-, -, h⟩ | ⟨-, -, h⟩
  · rw [h, hk]; exact hd
  · rw [h]; exact resultCode_toNat_le fail
  · rw [h]; exact hd

/-- Every rule leaves a result code that exists (60_exceptions.md R220). -/
theorem runFsm_result_le (f : Fsm) (p : Params) (s : Decoder) (inp : Inputs) (d : Decoder)
    (hd : d.result.toNat ≤ 8) : (runFsm f p s inp d).result.toNat ≤ 8 := by
  cases f with
  | ready | assemble => exact hd
  | rateCheck =>
    rcases rateCheck_cases s inp d with ⟨-, h⟩ | ⟨-, h⟩ <;> rw [runFsm, h]
    · exact resultCode_toNat_le .rateLimited
    · exact hd
  | startPulse => simp only [runFsm, startPulse]; split <;> exact hd
  | idleWait | ackLowWait | ackHighWait | bitSyncWait =>
    exact wait_result_le _ _ _ _ _ _ _ (fun _ _ => rfl) hd
  | bitHighWait =>
    exact wait_result_le _ _ _ _ _ _ _ (fun c e => by unfold captureBit; split <;> rfl) hd
  | checksumVerify =>
    rcases checksumVerify_cases s d with ⟨-, h⟩ | ⟨-, h⟩ <;> rw [runFsm, h] <;> exact resultCode_toNat_le _

/-- No reset in a run, none in its beginning. -/
theorem NoReset.mono {s : State} {m n : Nat} (h : NoReset s n) (hle : m ≤ n) : NoReset s m :=
  fun j hj => h j (Nat.lt_of_lt_of_le hj hle)

/-- With legal parameters, `n` steps from `s` leave the decoder `d`, but for `cmd_err`. -/
structure State.Reaches (s : State) (n : Nat) (d : Decoder) : Prop where
  legal : s.params.legal = true
  result : d.result.toNat ≤ 8
  run : ∃ t e, runSteps n s = .next t ∧ t.dec = { d with cmdErr := e }

/-- After no steps the decoder is as it was. -/
theorem State.Inv.reaches_zero {s : State} (hI : s.Inv) : s.Reaches 0 s.dec :=
  ⟨hI.legal, hI.dec.result, s, s.dec.cmdErr, rfl, rfl⟩

/-- One more busy step runs the rule of the state reached. -/
theorem State.Reaches.next {s : State} {n : Nat} {d : Decoder} (h : s.Reaches n d) (f : Fsm)
    (hst : d.st = fsmCode f) (hf : f ≠ .ready) (hrst : (s.presented n).rst = false) :
    s.Reaches (n + 1) (runFsm f s.params d (s.presented n) d) := by
  obtain ⟨t, e, ht, hd⟩ := h.run
  obtain ⟨hparams, hpresented⟩ := runSteps_environment n s t ht
  have hnow : t.presented 0 = s.presented n := hpresented 0
  have htst : t.dec.st = fsmCode f := by rw [hd]; exact hst
  have hR : t.Runs (fsmCode f) :=
    ⟨by rw [hparams]; exact h.legal, by rw [(inputs_eq t).1, hnow, hrst], htst, by rw [hd]; exact h.result⟩
  have hrule : runFsm f t.params t.dec t.inputs t.dec
      = { runFsm f s.params d (s.presented n) d with cmdErr := e } := by
    rw [runFsm_of_presented f t.params t t.dec htst, hnow, hparams, hd, runFsm_reads_no_cmdErr, runFsm_cmdErr]
  have hstep := runSteps_succ_of_next t _ 0 (step_of_busy t f hR hf)
  refine ⟨h.legal, runFsm_result_le f _ _ _ _ h.result, _, t.errAfter,
    (runSteps_add n 1 s t ht).trans hstep, ?_⟩
  rw [after_dec, hrule]

/-- A state that counts `j` times stays for `j` steps. -/
theorem State.Reaches.counts {s : State} {k : Nat} {d : Decoder} (h : s.Reaches k d) (f : Fsm)
    (hst : d.st = fsmCode f) (hf : f ≠ .ready) (hcnt : d.cnt = 0) (j : Nat)
    (hrst : NoReset s (k + j))
    (hrule : ∀ i, i < j → runFsm f s.params { d with cnt := i } (s.presented (k + i)) { d with cnt := i }
      = { d with cnt := i + 1 }) : s.Reaches (k + j) { d with cnt := j } := by
  induction j with
  | zero =>
    have hd : { d with cnt := 0 } = d := by rw [← hcnt]
    rwa [hd]
  | succ j ih =>
    have hj := ih (hrst.mono (by omega)) (fun i hi => hrule i (by omega))
    have hnext := hj.next f hst hf (hrst (k + j) (by omega))
    rwa [hrule j (by omega)] at hnext

/-! ## Line levels -/

/-- The levels of two schedules in a row. -/
theorem lineIs_append (s : State) (k : Nat) (xs ys : List Bool) :
    LineIs s k (xs ++ ys) ↔ LineIs s k xs ∧ LineIs s (k + xs.length) ys := by
  constructor
  · intro h
    refine ⟨fun j hj => ?_, fun j hj => ?_⟩
    · rw [h j (by rw [List.length_append]; omega), List.getD_append _ _ _ _ hj]
    · rw [Nat.add_assoc, h _ (by rw [List.length_append]; omega),
        List.getD_append_right _ _ _ _ (Nat.le_add_right _ _), Nat.add_sub_cancel_left]
  · rintro ⟨hxs, hys⟩ j hj
    rw [List.length_append] at hj
    by_cases hlt : j < xs.length
    · rw [hxs j hlt, List.getD_append _ _ _ _ hlt]
    · have hle : xs.length ≤ j := by omega
      have := hys (j - xs.length) (by omega)
      rwa [Nat.add_assoc, Nat.add_sub_cancel' hle, ← List.getD_append_right _ _ _ _ hle] at this

/-- A level that stays. -/
theorem lineIs_replicate (s : State) (k n : Nat) (b : Bool) :
    LineIs s k (List.replicate n b) ↔ ∀ j, j < n → (s.presented (k + j)).line = b := by
  simp only [LineIs, List.length_replicate]
  exact forall₂_congr fun j hj => by rw [List.getD_replicate _ hj]

/-- A level that is presented once. -/
theorem lineIs_singleton (s : State) (k : Nat) (b : Bool) : LineIs s k [b] ↔ (s.presented k).line = b := by
  simp [LineIs]

/-! ## A bounded wait as a run (41_handshake.md R140) -/

section
variable {s : State} {f : Fsm} {target : Bool} {ceil : Nat} {fail : ResultCode}
  {act : Decoder → Nat → Decoder → Decoder} {k : Nat} {d : Decoder}

/-- Below the ceiling the wait stays for as many polls as sample the other level, and counts them. -/
theorem Waits.stays (hW : Waits s.params f target ceil fail act) (h : s.Reaches k d) (hst : d.st = fsmCode f)
    (hcnt : d.cnt = 0) {j : Nat} (hj : j < ceil) (hrst : NoReset s (k + j))
    (hline : LineIs s k (List.replicate j (!target))) : s.Reaches (k + j) { d with cnt := j } := by
  rw [lineIs_replicate] at hline
  exact h.counts f hst hW.busy hcnt j hrst fun i hi => hW.runFsm_of_other _ _ (hline i hi) (by simp only; omega)

/-- Before the poll `c` that sees the target the wait stays. -/
theorem Waits.stays_before (hW : Waits s.params f target ceil fail act) (h : s.Reaches k d)
    (hst : d.st = fsmCode f) (hcnt : d.cnt = 0) {c j : Nat} (hc : c ≤ ceil) (hj : j < c)
    (hrst : NoReset s (k + j)) (hline : LineIs s k (List.replicate (c - 1) (!target) ++ [target])) :
    s.Reaches (k + j) { d with cnt := j } := by
  have hothers := (lineIs_replicate s k _ _).1 ((lineIs_append s k _ _).1 hline).1
  exact hW.stays h hst hcnt (by omega) hrst ((lineIs_replicate s k _ _).2 fun i hi => hothers i (by omega))

/-- The wait succeeds at the first poll `c` that sees the target. -/
theorem Waits.succeeds (hW : Waits s.params f target ceil fail act) (h : s.Reaches k d)
    (hst : d.st = fsmCode f) (hcnt : d.cnt = 0) {c : Nat} (hc : 1 ≤ c ∧ c ≤ ceil) (hrst : NoReset s (k + c))
    (hline : LineIs s k (List.replicate (c - 1) (!target) ++ [target])) :
    s.Reaches (k + c) (act { d with cnt := c - 1 } c { d with cnt := 0 }) := by
  obtain ⟨j, rfl⟩ : ∃ j, c = j + 1 := ⟨c - 1, by omega⟩
  have hstay := hW.stays_before h hst hcnt hc.2 (Nat.lt_succ_self j) (hrst.mono (by omega)) hline
  have htarget : (s.presented (k + j)).line = target := by
    have := ((lineIs_append s k _ _).1 hline).2
    rwa [List.length_replicate, lineIs_singleton] at this
  have hnext := hstay.next f hst hW.busy (hrst (k + j) (by omega))
  rwa [hW.runFsm_of_target _ _ htarget] at hnext

/-- The wait fails at the ceiling when every poll saw the other level. -/
theorem Waits.fails (hW : Waits s.params f target ceil fail act) (h : s.Reaches k d) (hst : d.st = fsmCode f)
    (hcnt : d.cnt = 0) (hceil : 0 < ceil) (hrst : NoReset s (k + ceil))
    (hline : LineIs s k (List.replicate ceil (!target))) : s.Reaches (k + ceil) (finish fail d) := by
  rw [lineIs_replicate] at hline
  obtain ⟨j, rfl⟩ : ∃ j, ceil = j + 1 := ⟨ceil - 1, by omega⟩
  have hstay := hW.stays h hst hcnt (Nat.lt_succ_self j) (hrst.mono (by omega))
    ((lineIs_replicate s k _ _).2 fun i hi => hline i (by omega))
  have hnext := hstay.next f hst hW.busy (hrst (k + j) (by omega))
  rwa [hW.runFsm_of_ceiling _ _ (hline j (Nat.lt_succ_self j)) le_rfl] at hnext

/-- START_PULSE stays for its hold, counting its steps (41_handshake.md R143). -/
theorem startPulse_stays (h : s.Reaches k d) (hst : d.st = fsmCode .startPulse) (hcnt : d.cnt = 0) {j : Nat}
    (hj : j < s.params.startHold) (hrst : NoReset s (k + j)) : s.Reaches (k + j) { d with cnt := j } :=
  h.counts .startPulse hst (by decide) hcnt j hrst fun i hi => by
    rw [runFsm, startPulse, if_neg (by simp only; omega)]

/-- START_PULSE ends with its hold (41_handshake.md R143). -/
theorem startPulse_ends (h : s.Reaches k d) (hst : d.st = fsmCode .startPulse) (hcnt : d.cnt = 0)
    (hhold : 0 < s.params.startHold) (hrst : NoReset s (k + s.params.startHold)) :
    s.Reaches (k + s.params.startHold) (goto .ackLowWait { d with cnt := 0 }) := by
  obtain ⟨j, hj⟩ : ∃ j, s.params.startHold = j + 1 := ⟨s.params.startHold - 1, by omega⟩
  rw [hj] at hrst ⊢
  have hstay := startPulse_stays h hst hcnt (j := j) (by omega) (hrst.mono (by omega))
  have hnext := hstay.next .startPulse hst (by decide) (hrst (k + j) (by omega))
  rwa [runFsm, startPulse, if_pos (by simp only; omega)] at hnext

end

/-- Parameters are legal where the ceilings and the hold are positive (00_scope.md R10). -/
theorem legal_iff (p : Params) : p.legal = true ↔
    0 < p.idleCeil ∧ 0 < p.startHold ∧ 0 < p.ackLowCeil ∧ 0 < p.ackHighCeil ∧ 0 < p.syncCeil
      ∧ 0 < p.dataCeil := by
  simp [Params.legal, and_assoc]

/-! ## The steps of a handshake (41_handshake.md R146) -/

/-- The decoder of an attempt accepted in `s`, in RATE_CHECK; `cmd_err` is of no account. -/
def State.checking (s : State) : Decoder := { s.dec with st := 1#4, done := false }

/-- Accepting an attempt (40_command_interface.md R114). -/
theorem State.Inv.reaches_rateCheck {s : State} (hI : s.Inv) (hready : s.dec.st = 0#4)
    (hstarts : startsAttempt s = true) (hrst : NoReset s 1) :
    s.Reaches 1 s.checking := by
  have hR : s.Runs 0#4 := ⟨hI.legal, hrst 0 Nat.zero_lt_one, hready, hI.dec.result⟩
  obtain ⟨-, haccept, -⟩ := readyDoesNothingOfItsOwn s hR
  exact ⟨hI.legal, hI.dec.result, _, false, runSteps_succ_of_next s _ 0 (haccept hstarts), rfl⟩

/-- An attempt that comes too early ends in the step after it was accepted. -/
theorem State.Inv.reaches_rateLimited {s : State} (hI : s.Inv) (hready : s.dec.st = 0#4)
    (hstarts : startsAttempt s = true) (hlimited : Limited s.dec (s.presented 1).nowMs) (hrst : NoReset s 2) :
    s.Reaches 2 (finish .rateLimited s.dec) := by
  have hcheck := hI.reaches_rateCheck hready hstarts (hrst.mono (by omega))
  have hnext := hcheck.next .rateCheck rfl (by decide) (hrst 1 (by decide))
  rw [runFsm, rateCheck_of_limited s.checking _ _ hlimited] at hnext
  exact hnext

/-- The decoder of an attempt accepted in `s` that has passed its rate check, in the handshake state `f` after `n`
polls or hold steps; `cmd_err` is of no account. -/
def State.handshaking (s : State) (f : Fsm) (n : Nat) : Decoder :=
  { s.dec with st := fsmCode f, cnt := n, lastMs := (s.presented 1).nowMs, attempted := true, done := false }

section
variable {s : State} {h : Polls}

/-- An attempt whose rate check passes enters IDLE_WAIT. -/
theorem AttemptPasses.reaches_idleWait (hA : AttemptPasses s) (hI : s.Inv) (hrst : NoReset s 2) :
    s.Reaches 2 (s.handshaking .idleWait 0) := by
  have hcheck := hI.reaches_rateCheck hA.ready hA.starts (hrst.mono (by omega))
  have hnext := hcheck.next .rateCheck rfl (by decide) (hrst 1 (by decide))
  rw [runFsm, rateCheck_of_not_limited s.checking _ _ hA.inTime] at hnext
  exact hnext

/-- The idle wait succeeds: START_PULSE begins. -/
theorem AttemptPasses.reaches_startPulse (hA : AttemptPasses s) (hI : s.Inv) (hfit : PollsFit s.params h)
    (hidle : LineIs s 2 (List.replicate (h.idle - 1) false ++ [true])) (hrst : NoReset s (2 + h.idle)) :
    s.Reaches (2 + h.idle) (s.handshaking .startPulse 0) :=
  (waits_idleWait s.params).succeeds (hA.reaches_idleWait hI (hrst.mono (by omega))) rfl rfl hfit.1 hrst
    hidle

/-- The hold ends: ACK_LOW_WAIT begins. -/
theorem AttemptPasses.reaches_ackLowWait (hA : AttemptPasses s) (hI : s.Inv) (hfit : PollsFit s.params h)
    (hidle : LineIs s 2 (List.replicate (h.idle - 1) false ++ [true]))
    (hrst : NoReset s (2 + h.idle + s.params.startHold)) :
    s.Reaches (2 + h.idle + s.params.startHold) (s.handshaking .ackLowWait 0) := by
  obtain ⟨-, hhold, -⟩ := (legal_iff s.params).1 hI.legal
  exact startPulse_ends (hA.reaches_startPulse hI hfit hidle (hrst.mono (by omega))) rfl rfl hhold hrst

/-- The sensor acknowledges: ACK_HIGH_WAIT begins. -/
theorem AttemptPasses.reaches_ackHighWait (hA : AttemptPasses s) (hI : s.Inv) (hfit : PollsFit s.params h)
    (hidle : LineIs s 2 (List.replicate (h.idle - 1) false ++ [true]))
    (hackLow : LineIs s (2 + h.idle + s.params.startHold) (List.replicate (h.ackLow - 1) true ++ [false]))
    (hrst : NoReset s (2 + h.idle + s.params.startHold + h.ackLow)) :
    s.Reaches (2 + h.idle + s.params.startHold + h.ackLow) (s.handshaking .ackHighWait 0) :=
  (waits_ackLowWait s.params).succeeds
    (hA.reaches_ackLowWait hI hfit hidle (hrst.mono (by omega))) rfl rfl hfit.2.1 hrst hackLow

/-- The acknowledgment ends: the capture begins at slot 0 with an empty frame. -/
theorem AttemptPasses.reaches_bitSyncWait (hA : AttemptPasses s) (hI : s.Inv) (hfit : PollsFit s.params h)
    (hline : LineAnswers s h) (hrst : NoReset s (handshakeSteps s.params h)) :
    s.Reaches (handshakeSteps s.params h)
      { s.handshaking .bitSyncWait 0 with bitIdx := 0#6, frame := 0#41 } :=
  (waits_ackHighWait s.params).succeeds
    (hA.reaches_ackHighWait hI hfit hline.idle hline.ackLow
      (hrst.mono (by unfold handshakeSteps; omega))) rfl rfl hfit.2.2 hrst hline.ackHigh

/-- The FSM code after `m` steps of a handshake (41_handshake.md R146). -/
def handshakeCode (p : Params) (h : Polls) (m : Nat) : BitVec 4 :=
  if m = 0 then 0#4 else if m = 1 then 1#4 else if m < 2 + h.idle then 2#4
  else if m < 2 + h.idle + p.startHold then 3#4
  else if m < 2 + h.idle + p.startHold + h.ackLow then 4#4
  else if m < handshakeSteps p h then 5#4 else 6#4

/-- Within a handshake READY is left in its first step. -/
theorem handshakeCode_eq_zero_iff (p : Params) (h : Polls) (m : Nat) : handshakeCode p h m = 0#4 ↔ m = 0 := by
  unfold handshakeCode
  split_ifs with h0 <;> simp [h0]

/-- The steps of a handshake that are START_PULSE's. -/
theorem handshakeCode_eq_startPulse_iff (p : Params) (h : Polls) (m : Nat) (hidle : 1 ≤ h.idle) :
    handshakeCode p h m = 3#4 ↔ 2 + h.idle ≤ m ∧ m < 2 + h.idle + p.startHold := by
  unfold handshakeCode
  split_ifs <;> simp <;> omega

/-- Every step of a handshake is in its state. -/
theorem AttemptPasses.reaches_handshakeCode (hA : AttemptPasses s) (hI : s.Inv) (hfit : PollsFit s.params h)
    (hline : LineAnswers s h) (hrst : NoReset s (handshakeSteps s.params h)) (m : Nat)
    (hm : m ≤ handshakeSteps s.params h) :
    ∃ d, s.Reaches m d ∧ d.st = handshakeCode s.params h m ∧ (0 < m → d.done = false) := by
  have hsteps : handshakeSteps s.params h = 2 + h.idle + s.params.startHold + h.ackLow + h.ackHigh := rfl
  have hnow := hrst.mono hm
  have ⟨⟨_, hidle⟩, ⟨_, hackLow⟩, _, hackHigh⟩ := hfit
  unfold handshakeCode
  split_ifs with h0 h1 h2 h3 h4 h5
  · subst h0
    exact ⟨_, hI.reaches_zero, hA.ready, fun h => absurd h (by decide)⟩
  · subst h1
    exact ⟨_, hI.reaches_rateCheck hA.ready hA.starts hnow, rfl, fun _ => rfl⟩
  · obtain ⟨j, rfl⟩ := Nat.exists_eq_add_of_le (show 2 ≤ m by omega)
    have hentry := hA.reaches_idleWait hI (hrst.mono (by omega))
    exact ⟨_, (waits_idleWait s.params).stays_before hentry rfl rfl hidle (by omega) hnow hline.idle,
      rfl, fun _ => rfl⟩
  · obtain ⟨j, rfl⟩ := Nat.exists_eq_add_of_le (not_lt.1 h2)
    have hentry := hA.reaches_startPulse hI hfit hline.idle (hrst.mono (by omega))
    exact ⟨_, startPulse_stays hentry rfl rfl (by omega) hnow, rfl, fun _ => rfl⟩
  · obtain ⟨j, rfl⟩ := Nat.exists_eq_add_of_le (not_lt.1 h3)
    have hentry := hA.reaches_ackLowWait hI hfit hline.idle (hrst.mono (by omega))
    exact ⟨_, (waits_ackLowWait s.params).stays_before hentry rfl rfl hackLow (by omega) hnow hline.ackLow,
      rfl, fun _ => rfl⟩
  · obtain ⟨j, rfl⟩ := Nat.exists_eq_add_of_le (not_lt.1 h4)
    have hentry := hA.reaches_ackHighWait hI hfit hline.idle hline.ackLow (hrst.mono (by omega))
    exact ⟨_, (waits_ackHighWait s.params).stays_before hentry rfl rfl hackHigh (by omega) hnow hline.ackHigh,
      rfl, fun _ => rfl⟩
  · obtain rfl : m = handshakeSteps s.params h := by omega
    exact ⟨_, hA.reaches_bitSyncWait hI hfit hline hrst, rfl, fun _ => rfl⟩

end

/-- The line is driven low exactly in START_PULSE (10_state.md R37). -/
theorem lineDriveLow_iff (d : Decoder) : lineDriveLow d = true ↔ d.st = 3#4 := beq_iff_eq

/-- Settles O50: each state of the handshake is entered where the one before it ends, and each stays for its polls or
its hold. -/
theorem handshakeTakesItsPolls : Obligations.HandshakeTakesItsPolls := by
  unfold Obligations.HandshakeTakesItsPolls
  intro s h hI hA hfit hline hrst
  constructor
  · obtain ⟨t, e, ht, hd⟩ := (hA.reaches_bitSyncWait hI hfit hline hrst).run
    refine ⟨t, ht, ?_⟩
    rw [hd]
    exact ⟨rfl, rfl, rfl, rfl, rfl, rfl⟩
  · intro m hm
    obtain ⟨d, hreach, hst, hdone⟩ := hA.reaches_handshakeCode hI hfit hline hrst m hm
    obtain ⟨t, e, ht, hd⟩ := hreach.run
    have htst : t.dec.st = handshakeCode s.params h m := by rw [hd]; exact hst
    refine ⟨t, ht, htst, ?_, fun hpos => ⟨?_, ?_⟩⟩
    · rw [lineDriveLow_iff, htst, handshakeCode_eq_startPulse_iff _ _ _ hfit.1.1]
    · rw [htst, Ne, handshakeCode_eq_zero_iff]; omega
    · rw [hd]; exact hdone hpos

/-! ## The gates of a handshake (41_handshake.md R147) -/

/-- A reached decoder outside START_PULSE leaves the line released. -/
theorem State.Reaches.line_released {s : State} {n : Nat} {d : Decoder} (h : s.Reaches n d) (hst : d.st ≠ 3#4) :
    ∃ u, runSteps n s = .next u ∧ lineDriveLow u.dec = false := by
  obtain ⟨t, e, ht, hd⟩ := h.run
  refine ⟨t, ht, ?_⟩
  rw [← Bool.not_eq_true, lineDriveLow_iff, hd]
  exact hst

/-- A rate-limited attempt leaves the line released in each of its steps and after it. -/
theorem State.Inv.line_released_of_limited {s : State} (hI : s.Inv) (hready : s.dec.st = 0#4)
    (hstarts : startsAttempt s = true) (hlimited : Limited s.dec (s.presented 1).nowMs) (hrst : NoReset s 2)
    (m : Nat) (hm : m ≤ 2) : ∃ u, runSteps m s = .next u ∧ lineDriveLow u.dec = false := by
  obtain rfl | rfl | rfl : m = 0 ∨ m = 1 ∨ m = 2 := by omega
  · exact hI.reaches_zero.line_released (by rw [hready]; decide)
  · have hchecking : s.checking.st ≠ 3#4 := (by decide : (1#4 : BitVec 4) ≠ 3#4)
    exact (hI.reaches_rateCheck hready hstarts (hrst.mono (by omega))).line_released hchecking
  · have hfinished : (finish .rateLimited s.dec).st ≠ 3#4 := by rw [finish_st]; decide
    exact (hI.reaches_rateLimited hready hstarts hlimited hrst).line_released hfinished

/-- A handshake state that fails ends the attempt with its code; the attempt is recorded and `bit_idx` untouched. -/
theorem State.Reaches.failed {s : State} {n m : Nat} {f : Fsm} {c : ResultCode}
    (h : s.Reaches n (finish c (s.handshaking f m))) :
    ∃ t, runSteps n s = .next t ∧ t.dec.st = 0#4 ∧ t.dec.result = resultCode c
      ∧ t.dec.lastMs = (s.presented 1).nowMs ∧ t.dec.bitIdx = s.dec.bitIdx := by
  obtain ⟨t, e, ht, hd⟩ := h.run
  refine ⟨t, ht, ?_⟩
  rw [hd]
  exact ⟨rfl, rfl, rfl, rfl⟩

/-- The handshake's states at their ceilings lie within the bound on an attempt (70_reset_and_hazards.md R264). -/
theorem handshake_le_maxLatency (p : Params) :
    2 + p.idleCeil + p.startHold + p.ackLowCeil + p.ackHighCeil ≤ p.maxLatency + 1 := by
  unfold Params.maxLatency
  omega

/-- Settles O51: each gate is reached by the gates before it succeeding, and fails at its own ceiling. -/
theorem handshakeFailureNamesTheGate : Obligations.HandshakeFailureNamesTheGate := by
  unfold Obligations.HandshakeFailureNamesTheGate
  intro s h hI hready hstarts hfit hrst
  obtain ⟨hidleCeil, -, hackLowCeil, hackHighCeil, -⟩ := (legal_iff s.params).1 hI.legal
  have hbound := handshake_le_maxLatency s.params
  have hA := AttemptPasses.mk hready hstarts
  refine ⟨fun hlimited => ?_, fun hpasses hidle => ?_, fun hpasses hidle hackLow => ?_,
    fun hpasses hidle hackLow hackHigh => ?_⟩
  · have hrst2 : NoReset s 2 := hrst.mono (by omega)
    obtain ⟨t, e, ht, hd⟩ := (hI.reaches_rateLimited hready hstarts hlimited hrst2).run
    refine ⟨t, ht, ?_⟩
    rw [hd]
    exact ⟨rfl, rfl, rfl, rfl, rfl, hI.line_released_of_limited hready hstarts hlimited hrst2⟩
  · have hentry := (hA hpasses).reaches_idleWait hI (hrst.mono (by omega))
    exact ((waits_idleWait s.params).fails hentry rfl rfl hidleCeil (hrst.mono (by omega)) hidle).failed
  · have hentry := (hA hpasses).reaches_ackLowWait hI hfit hidle (hrst.mono (by omega))
    exact ((waits_ackLowWait s.params).fails hentry rfl rfl hackLowCeil (hrst.mono (by omega)) hackLow).failed
  · have hentry := (hA hpasses).reaches_ackHighWait hI hfit hidle hackLow (hrst.mono (by omega))
    exact ((waits_ackHighWait s.params).fails hentry rfl rfl hackHighCeil (hrst.mono (by omega)) hackHigh).failed

end Sys2Proof.Machine

/-! The statements of 42_bit_capture.md: one step of each capture state, a loop whose slots are all good, and the slot
at which a loop fails. -/

namespace Sys2Proof.Machine

/-! ## The threshold decoder (42_bit_capture.md R163) -/

/-- A sample above the threshold is a 1. -/
theorem bitOf_of_lt {p : Params} {c : Nat} (h : p.bitThreshold < c) : bitOf p c = true := decide_eq_true h

/-- A sample at or below the threshold is a 0. -/
theorem bitOf_of_le {p : Params} {c : Nat} (h : c ≤ p.bitThreshold) : bitOf p c = false :=
  decide_eq_false (Nat.not_lt_of_le h)

/-- Settles O31: the corner cases put every sample on one side of the threshold; the frame of zeros is evaluated. -/
theorem thresholdSplitsSamples : Obligations.ThresholdSplitsSamples := by
  unfold Obligations.ThresholdSplitsSamples
  intro p c
  refine ⟨bitOf_of_le, bitOf_of_lt, fun hzero hc => bitOf_of_lt ?_, fun hceil hc => bitOf_of_le (hc.trans hceil),
    by decide⟩
  rwa [hzero]

/-! ## The frame (42_bit_capture.md R162, R164) -/

/-- A captured bit doubles the frame and enters as its last bit; bit 40 drops out. -/
theorem shiftFrame_toNat (f : Frame) (b : Bool) : (shiftFrame f b).toNat = (2 * f.toNat + b.toNat) % 2 ^ 41 := by
  rw [shiftFrame, BitVec.toNat_append, ← Nat.shiftLeft_add_eq_or_of_lt (BitVec.isLt _), Nat.shiftLeft_eq,
    BitVec.extractLsb'_toNat, BitVec.toNat_ofBool, Nat.shiftRight_zero]
  have hb : b.toNat < 2 := b.toNat_lt
  omega

/-- The captured bit is bit 0 of the frame. -/
theorem shiftFrame_getLsbD_zero (f : Frame) (b : Bool) : (shiftFrame f b).getLsbD 0 = b := by
  rw [shiftFrame, BitVec.getLsbD_append]
  simp

/-- The bits captured before move up by one. -/
theorem shiftFrame_getLsbD_succ (f : Frame) (b : Bool) {n : Nat} (hn : n < 40) :
    (shiftFrame f b).getLsbD (n + 1) = f.getLsbD n := by
  rw [shiftFrame, BitVec.getLsbD_append]
  simp [hn]

/-- The frame after these slots, one bit entered for each, in order (42_bit_capture.md R164). -/
def framed (p : Params) (f : Frame) (slots : List (Nat × Nat)) : Frame :=
  slots.foldl (fun g slot => shiftFrame g (bitOf p slot.2)) f

/-- The last slot's bit enters last. -/
theorem framed_concat (p : Params) (f : Frame) (slots : List (Nat × Nat)) (last : Nat × Nat) :
    framed p f (slots ++ [last]) = shiftFrame (framed p f slots) (bitOf p last.2) :=
  List.foldl_concat ..

/-- As long as no bit drops out, slot `i`'s bit stands above one bit for each slot after it. -/
theorem framed_getLsbD (p : Params) (f : Frame) (slots : List (Nat × Nat)) (hlen : slots.length ≤ 41) (i n : Nat)
    (hi : i + n + 1 = slots.length) : (framed p f slots).getLsbD n = bitOf p (slots.getD i (0, 0)).2 := by
  induction slots using List.reverseRecOn generalizing n with
  | nil => simp at hi
  | append_singleton init last ih =>
    rw [List.length_append, List.length_singleton] at hlen hi
    rw [framed_concat]
    cases n with
    | zero =>
      have hlast : i = init.length := by omega
      rw [shiftFrame_getLsbD_zero, hlast, List.getD_append_right _ _ _ _ le_rfl, Nat.sub_self]
      rfl
    | succ n =>
      rw [shiftFrame_getLsbD_succ _ _ (by omega), ih (by omega) n (by omega), List.getD_append _ _ _ _ (by omega)]

/-! ## One step of the capture states (42_bit_capture.md R161, R162) -/

/-- BIT_SYNC_WAIT is a bounded wait for low (42_bit_capture.md R161). -/
theorem waits_bitSyncWait (p : Params) :
    Waits p .bitSyncWait false p.syncCeil .syncTimeout (fun _ _ => goto .bitHighWait) :=
  ⟨by decide, fun _ _ => rfl⟩

/-- BIT_HIGH_WAIT is a bounded wait for high that captures a bit (42_bit_capture.md R162). -/
theorem waits_bitHighWait (p : Params) : Waits p .bitHighWait true p.dataCeil .dataTimeout (captureBit p) :=
  ⟨by decide, fun _ _ => rfl⟩

/-- The capture of slot 40 completes the frame. -/
theorem captureBit_of_last (p : Params) (s : Decoder) (c : Nat) (d : Decoder) (h : s.bitIdx = 40#6) :
    captureBit p s c d = goto .assemble { d with frame := shiftFrame s.frame (bitOf p c) } := if_pos h

/-- The capture of an earlier slot goes on with the next. -/
theorem captureBit_of_not_last (p : Params) (s : Decoder) (c : Nat) (d : Decoder) (h : s.bitIdx ≠ 40#6) :
    captureBit p s c d
      = goto .bitSyncWait { d with frame := shiftFrame s.frame (bitOf p c), bitIdx := s.bitIdx + 1#6 } := if_neg h

/-- Settles O29: BIT_SYNC_WAIT is a bounded wait for low that writes no index. -/
theorem bitSyncWaitPolls : Obligations.BitSyncWaitPolls := by
  unfold Obligations.BitSyncWaitPolls
  intro s hR
  exact (waits_bitSyncWait s.params).step hR

/-- Settles O30: BIT_HIGH_WAIT is a bounded wait for high; its frame is the one the arithmetic names, and the index
decides where a captured bit leads. -/
theorem bitHighWaitPolls : Obligations.BitHighWaitPolls := by
  unfold Obligations.BitHighWaitPolls
  intro s hR
  obtain ⟨hsuccess, hfails, hstays⟩ := (waits_bitHighWait s.params).step hR
  refine ⟨fun f hf hline => ?_, hfails, hstays⟩
  have hframe : f = shiftFrame s.dec.frame (bitOf s.params (s.dec.cnt + 1)) := by
    apply BitVec.eq_of_toNat_eq
    rw [hf, shiftFrame_toNat, bitOf, Bool.toNat, Bool.cond_decide]
  rw [hsuccess hline, hframe]
  by_cases hlast : s.dec.bitIdx = 40#6
  · rw [if_pos hlast, captureBit_of_last _ _ _ _ hlast]; rfl
  · rw [if_neg hlast, captureBit_of_not_last _ _ _ _ hlast]; rfl

/-! ## The steps of the capture loop (42_bit_capture.md R165, R168) -/

/-- The steps of one slot after another. -/
theorem slotSteps_append (xs ys : List (Nat × Nat)) : slotSteps (xs ++ ys) = slotSteps xs + slotSteps ys := by
  simp [slotSteps]

/-- The steps of one slot: its sync polls and its sample. -/
theorem slotSteps_singleton (slot : Nat × Nat) : slotSteps [slot] = slot.1 + slot.2 := by
  simp [slotSteps]

/-- The levels of a slot are the polls of its sync, then those of its counted wait. -/
theorem slotLevels_eq (slot : Nat × Nat) :
    slotLevels slot
      = (List.replicate (slot.1 - 1) true ++ [false]) ++ (List.replicate (slot.2 - 1) false ++ [true]) := by
  simp [slotLevels]

/-- One level is presented in each step of the slots, where every slot has its polls. -/
theorem length_flatMap_slotLevels {p : Params} {slots : List (Nat × Nat)} (hfit : SlotsFit p slots) :
    (slots.flatMap slotLevels).length = slotSteps slots := by
  rw [List.length_flatMap, slotSteps]
  refine congrArg List.sum (List.map_congr_left fun slot hslot => ?_)
  obtain ⟨⟨ha, -⟩, hc, -⟩ := hfit slot hslot
  simp only [slotLevels, List.length_append, List.length_replicate, List.length_singleton]
  omega

/-- The levels of slots in a row. -/
theorem lineIs_slots_append {p : Params} (s : State) (k : Nat) {xs : List (Nat × Nat)} (hfit : SlotsFit p xs)
    (ys : List (Nat × Nat)) : LineIs s k ((xs ++ ys).flatMap slotLevels) ↔
      LineIs s k (xs.flatMap slotLevels) ∧ LineIs s (k + slotSteps xs) (ys.flatMap slotLevels) := by
  rw [List.flatMap_append, lineIs_append, length_flatMap_slotLevels hfit]

/-- The decoder `d` at the beginning of slot `i` of a capture, the frame being `f`. -/
def Decoder.atSlot (d : Decoder) (i : Nat) (f : Frame) : Decoder :=
  { d with st := fsmCode .bitSyncWait, cnt := 0, bitIdx := BitVec.ofNat 6 i, frame := f }

/-- Where a capture begins the decoder is at slot 0. -/
theorem Decoder.atSlot_zero {d : Decoder} (hst : d.st = 6#4) (hcnt : d.cnt = 0) (hidx : d.bitIdx = 0#6) :
    d.atSlot 0 d.frame = d := by
  rw [Decoder.atSlot, show BitVec.ofNat 6 0 = d.bitIdx from hidx.symm, ← hcnt,
    show fsmCode .bitSyncWait = d.st from hst.symm]

/-- The capture of a bit in slot `i < 40` leads to the beginning of the next slot. -/
theorem captureBit_atSlot (p : Params) (d : Decoder) {i : Nat} (hi : i < 40) (f : Frame) (c : Nat) :
    captureBit p (d.atSlot i f) c (d.atSlot i f) = d.atSlot (i + 1) (shiftFrame f (bitOf p c)) := by
  have hidx : (d.atSlot i f).bitIdx ≠ 40#6 := by
    change BitVec.ofNat 6 i ≠ 40#6
    bv_omega
  rw [captureBit_of_not_last _ _ _ _ hidx]
  simp only [Decoder.atSlot, goto, BitVec.ofNat_add]

section
variable {s : State} {k i : Nat} {d : Decoder} {f : Frame}

/-- A slot's sync succeeds: its counted wait begins. -/
theorem State.Reaches.syncSlot (h : s.Reaches k (d.atSlot i f)) {a : Nat} (ha : 1 ≤ a ∧ a ≤ s.params.syncCeil)
    (hrst : NoReset s (k + a)) (hline : LineIs s k (List.replicate (a - 1) true ++ [false])) :
    s.Reaches (k + a) (goto .bitHighWait (d.atSlot i f)) :=
  (waits_bitSyncWait s.params).succeeds h rfl rfl ha hrst hline

/-- A good slot ends with the capture of its bit. -/
theorem State.Reaches.captureSlot (h : s.Reaches k (d.atSlot i f)) {slot : Nat × Nat}
    (hfit : SlotsFit s.params [slot]) (hrst : NoReset s (k + slotSteps [slot]))
    (hline : LineIs s k ([slot].flatMap slotLevels)) :
    s.Reaches (k + slotSteps [slot]) (captureBit s.params (d.atSlot i f) slot.2 (d.atSlot i f)) := by
  obtain ⟨ha, hc⟩ := hfit slot (List.mem_singleton_self slot)
  rw [slotSteps_singleton, ← Nat.add_assoc] at hrst ⊢
  rw [List.flatMap_singleton, slotLevels_eq, lineIs_append, List.length_append, List.length_replicate,
    List.length_singleton, Nat.sub_add_cancel ha.1] at hline
  obtain ⟨hsync, hdata⟩ := hline
  exact (waits_bitHighWait s.params).succeeds (h.syncSlot ha (hrst.mono (by omega)) hsync) rfl rfl hc hrst hdata

/-- Good slots before the last lead to the slot after them, in order, with their bits in the frame. -/
theorem State.Reaches.captureSlots (h : s.Reaches k (d.atSlot 0 f)) (slots : List (Nat × Nat))
    (hlen : slots.length ≤ 40) (hfit : SlotsFit s.params slots) (hrst : NoReset s (k + slotSteps slots))
    (hline : LineIs s k (slots.flatMap slotLevels)) :
    s.Reaches (k + slotSteps slots) (d.atSlot slots.length (framed s.params f slots)) := by
  induction slots using List.reverseRecOn with
  | nil => exact h
  | append_singleton init last ih =>
    rw [slotSteps_append, ← Nat.add_assoc] at hrst ⊢
    obtain ⟨hfitInit, hfitLast⟩ := List.forall_mem_append.1 hfit
    obtain ⟨hinit, hlast⟩ := (lineIs_slots_append s k hfitInit _).1 hline
    rw [List.length_append, List.length_singleton] at hlen ⊢
    have hbegin := ih (by omega) hfitInit (hrst.mono (by omega)) hinit
    have hend := hbegin.captureSlot hfitLast hrst hlast
    rwa [captureBit_atSlot _ _ (by omega), ← framed_concat] at hend

/-- 41 good slots lead to ASSEMBLE with the frame complete and the index of the last slot
(42_bit_capture.md R165). -/
theorem State.Reaches.captureFrame (h : s.Reaches k (d.atSlot 0 f)) (slots : List (Nat × Nat))
    (hlen : slots.length = 41) (hfit : SlotsFit s.params slots) (hrst : NoReset s (k + slotSteps slots))
    (hline : LineIs s k (slots.flatMap slotLevels)) :
    s.Reaches (k + slotSteps slots) (goto .assemble (d.atSlot 40 (framed s.params f slots))) := by
  obtain rfl | ⟨init, last, rfl⟩ := List.eq_nil_or_concat' slots
  · cases hlen
  rw [slotSteps_append, ← Nat.add_assoc] at hrst ⊢
  obtain ⟨hfitInit, hfitLast⟩ := List.forall_mem_append.1 hfit
  obtain ⟨hinit, hlast⟩ := (lineIs_slots_append s k hfitInit _).1 hline
  have hlenInit : init.length = 40 := by simpa using hlen
  have hbegin := h.captureSlots init hlenInit.le hfitInit (hrst.mono (by omega)) hinit
  rw [hlenInit] at hbegin
  have hend := hbegin.captureSlot hfitLast hrst hlast
  rw [captureBit_of_last _ _ _ _ rfl] at hend
  rw [framed_concat]
  exact hend

end

/-- Settles O52: the slots before slot `i` lead to slot `i`, all 41 to ASSEMBLE; each bit then stands where the slots
after it have moved it. -/
theorem captureLoopFillsTheFrame : Obligations.CaptureLoopFillsTheFrame := by
  unfold Obligations.CaptureLoopFillsTheFrame
  intro s slots hI hst hcnt hidx hlen hfit hrst hline
  have hbegin := hI.reaches_zero
  rw [← Decoder.atSlot_zero hst hcnt hidx] at hbegin
  constructor
  · intro i hi
    have hsplit := List.take_append_drop i slots
    have htake : (slots.take i).length = i := by rw [List.length_take]; omega
    rw [← hsplit] at hfit hline hrst
    obtain ⟨hfitTake, -⟩ := List.forall_mem_append.1 hfit
    obtain ⟨hlineTake, -⟩ := (lineIs_slots_append s 0 hfitTake _).1 hline
    rw [slotSteps_append] at hrst
    have hslot := hbegin.captureSlots _ (by omega) hfitTake (hrst.mono (by omega)) hlineTake
    rw [Nat.zero_add, htake] at hslot
    obtain ⟨u, e, hu, hd⟩ := hslot.run
    refine ⟨u, hu, ?_⟩
    rw [hd]
    exact ⟨rfl, rfl, rfl⟩
  · have hend := hbegin.captureFrame slots hlen hfit (hrst.mono (by omega)) hline
    rw [Nat.zero_add] at hend
    obtain ⟨t, e, ht, hd⟩ := hend.run
    refine ⟨t, ht, ?_⟩
    rw [hd]
    exact ⟨rfl, rfl, fun i hi => framed_getLsbD s.params s.dec.frame slots hlen.le i (40 - i) (by omega)⟩

/-! ## The failures of the capture loop (42_bit_capture.md R169) -/

/-- A slot that fails ends the attempt with its code and leaves its index; nothing else but the frame differs from the
decoder in which the capture began. -/
theorem State.Reaches.slotFailed {s : State} {n i : Nat} {d : Decoder} {f : Frame} {g : Fsm} {c : ResultCode}
    (h : s.Reaches n (finish c (goto g (d.atSlot i f)))) :
    ∃ t, runSteps n s = .next t
      ∧ t.dec = { d with st := 0#4, result := resultCode c, done := true, cnt := 0, frame := t.dec.frame,
                         bitIdx := BitVec.ofNat 6 i, cmdErr := t.dec.cmdErr } := by
  obtain ⟨t, e, ht, hd⟩ := h.run
  refine ⟨t, ht, ?_⟩
  rw [hd]
  rfl

/-- Settles O53: the good slots lead to the slot after them, whose sync or counted wait fails at its ceiling. -/
theorem loopFailureNamesTheSlot : Obligations.LoopFailureNamesTheSlot := by
  unfold Obligations.LoopFailureNamesTheSlot
  intro s slots a hI hst hcnt hidx hlen hfit ha hceil hrst
  obtain ⟨-, -, -, -, hsyncCeil, hdataCeil⟩ := (legal_iff s.params).1 hI.legal
  have hbegin := hI.reaches_zero
  rw [← Decoder.atSlot_zero hst hcnt hidx] at hbegin
  have hslot := hbegin.captureSlots slots hlen hfit (hrst.mono (by omega))
  rw [Nat.zero_add] at hslot
  constructor
  · intro hline
    rw [lineIs_append, length_flatMap_slotLevels hfit, Nat.zero_add] at hline
    obtain ⟨hslots, hsync⟩ := hline
    exact ((waits_bitSyncWait s.params).fails (hslot hslots) rfl rfl hsyncCeil (hrst.mono (by omega))
      hsync).slotFailed (g := .bitSyncWait)
  · intro hline
    rw [List.append_assoc (slots.flatMap slotLevels), lineIs_append, lineIs_append, List.length_append,
      length_flatMap_slotLevels hfit, List.length_append, List.length_replicate, List.length_singleton,
      Nat.sub_add_cancel ha, Nat.zero_add, Nat.zero_add] at hline
    obtain ⟨⟨hslots, hsync⟩, hdata⟩ := hline
    have hwait := (hslot hslots).syncSlot ⟨ha, hceil⟩ (hrst.mono (by omega)) hsync
    exact ((waits_bitHighWait s.params).fails hwait rfl rfl hdataCeil (hrst.mono (by omega)) hdata).slotFailed

end Sys2Proof.Machine

/-! The statements of 43_framing_checksum.md: the arithmetic of the checksum and of the reading, the two framing steps,
and a failed attempt's reading. -/

namespace Sys2Proof.Machine

/-! ## The checksum (43_framing_checksum.md R181) -/

/-- The high byte of a field is what 256 goes into it. -/
theorem highByte_toNat (f : Half) : (highByte f).toNat = f.toNat / 256 := by
  have hf : f.toNat < 2 ^ 16 := f.isLt
  rw [highByte, BitVec.extractLsb'_toNat, Nat.shiftRight_eq_div_pow]
  omega

/-- The low byte of a field is what remains. -/
theorem lowByte_toNat (f : Half) : (lowByte f).toNat = f.toNat % 256 := by
  rw [lowByte, BitVec.extractLsb'_toNat, Nat.shiftRight_zero]

/-- Settles O34: byte additions wrap modulo 256, and reducing each partial sum reduces the whole one. -/
theorem checksumIsByteSumModulo256 : Obligations.ChecksumIsByteSumModulo256 := by
  unfold Obligations.ChecksumIsByteSumModulo256
  intro rh rt
  simp only [calcCk, BitVec.toNat_add, highByte_toNat, lowByte_toNat, Nat.mod_add_mod]

/-! ## The reading (43_framing_checksum.md R183, R184) -/

/-- The masking of R183 leaves the low 15 bits. -/
theorem humOf_toNat (f : Half) : (humOf f).toNat = f.toNat % 0x8000 := by
  rw [humOf, BitVec.toNat_setWidth, BitVec.extractLsb'_toNat, Nat.shiftRight_zero]
  omega

/-- Without bit 15 a field is no negative number. -/
theorem humOf_toInt (f : Half) : (humOf f).toInt = f.toNat % 0x8000 := by
  rw [BitVec.toInt_eq_toNat_of_lt (by rw [humOf_toNat]; omega), humOf_toNat]
  rfl

/-- The sign flag of a temperature field is set from 0x8000 on. -/
theorem signFlag_iff (f : Half) : f.getLsbD 15 = true ↔ 0x8000 ≤ f.toNat := by
  rw [← BitVec.msb_eq_getLsbD_last f, BitVec.msb_eq_decide, decide_eq_true_eq]

/-- The temperature is the magnitude R183's masking leaves, negated where the sign flag is set. -/
theorem tempOf_eq (f : Half) : tempOf f = if 0x8000 ≤ f.toNat then -humOf f else humOf f := by
  rw [tempOf, BitVec.zero_sub]
  exact if_congr (signFlag_iff f) rfl rfl

/-- The negation of a magnitude does not overflow. -/
theorem neg_humOf_toInt (f : Half) : (-humOf f).toInt = -(humOf f).toInt := by
  rw [BitVec.toInt_neg, humOf_toInt]
  exact Int.bmod_eq_of_le (by omega) (by omega)

/-- Settles O35: by the sign flag; either way the value is a magnitude below 0x8000 or its negation. -/
theorem reconstructionMasksAndSigns : Obligations.ReconstructionMasksAndSigns := by
  unfold Obligations.ReconstructionMasksAndSigns
  intro rh rt
  have hrt : rt.toNat < 0x10000 := rt.isLt
  refine ⟨humOf_toNat rh, ?_⟩
  rw [tempOf_eq rt]
  by_cases hsign : 0x8000 ≤ rt.toNat
  · rw [if_pos hsign, if_neg (by omega), neg_humOf_toInt, humOf_toInt]
    exact ⟨by omega, by omega, by omega, by decide⟩
  · rw [if_neg hsign, if_pos (by omega), humOf_toInt]
    exact ⟨by omega, by omega, by omega, by decide⟩

/-! ## The two framing steps (43_framing_checksum.md R180, R182, R185) -/

/-- Settles O32: the step runs ASSEMBLE's rule, whose writes are the slices of the frame. -/
theorem assembleExtractsTheFields : Obligations.AssembleExtractsTheFields := by
  unfold Obligations.AssembleExtractsTheFields
  intro s hR
  rw [step_of_busy s .assemble hR (by decide)]
  rfl

/-- Settles O33: the step runs CHECKSUM_VERIFY's rule, by whether the checksums agree. -/
theorem checksumVerifyAcceptsOrRejects : Obligations.ChecksumVerifyAcceptsOrRejects := by
  unfold Obligations.ChecksumVerifyAcceptsOrRejects
  intro s hR
  rw [step_of_busy s .checksumVerify hR (by decide), runFsm]
  rcases checksumVerify_cases s.dec s.dec with ⟨hck, h⟩ | ⟨hck, h⟩ <;> rw [h]
  · exact ⟨fun heq => absurd heq hck, fun _ => rfl⟩
  · exact ⟨fun _ => rfl, fun hne => absurd hck hne⟩

/-! ## Who writes the reading (43_framing_checksum.md R188) -/

/-- The reading: humidity, temperature, and whether they were ever read (10_state.md R27). -/
def Decoder.reading (d : Decoder) : Half × Half × Bool := (d.hum, d.temp, d.valid)

/-- Equal readings, field by field. -/
theorem Decoder.reading_eq_iff (d e : Decoder) :
    d.reading = e.reading ↔ d.hum = e.hum ∧ d.temp = e.temp ∧ d.valid = e.valid := by
  simp only [Decoder.reading, Prod.mk.injEq]

/-- A bounded wait writes no reading where its success action writes none. -/
theorem wait_reading (target : Bool) (ceil : Nat) (fail : ResultCode) (k : Nat → Decoder → Decoder)
    (s : Decoder) (inp : Inputs) (d : Decoder) (hk : ∀ c e, (k c e).reading = e.reading) :
    (wait target ceil fail k s inp d).reading = d.reading :=
  wait_keeps Decoder.reading target ceil fail k s inp d hk rfl (fun _ => rfl)

/-- The capture of a bit writes no reading (42_bit_capture.md R162). -/
theorem captureBit_reading (p : Params) (s : Decoder) (c : Nat) (d : Decoder) :
    (captureBit p s c d).reading = d.reading := by
  unfold captureBit; split <;> rfl

/-- No rule but that of an accepting CHECKSUM_VERIFY writes the reading. -/
theorem runFsm_reading (f : Fsm) (p : Params) (s : Decoder) (inp : Inputs) (d : Decoder)
    (hreject : f = .checksumVerify → s.calcCk ≠ s.rawCk) : (runFsm f p s inp d).reading = d.reading := by
  cases f with
  | ready | assemble => rfl
  | rateCheck => rcases rateCheck_cases s inp d with ⟨-, h⟩ | ⟨-, h⟩ <;> rw [runFsm, h] <;> rfl
  | startPulse => simp only [runFsm, startPulse]; split <;> rfl
  | idleWait | ackLowWait | ackHighWait | bitSyncWait => exact wait_reading _ _ _ _ _ _ _ fun _ _ => rfl
  | bitHighWait => exact wait_reading _ _ _ _ _ _ _ fun c e => captureBit_reading p s c e
  | checksumVerify =>
    rcases checksumVerify_cases s d with ⟨-, h⟩ | ⟨hck, -⟩
    · rw [runFsm, h]; rfl
    · exact absurd hck (hreject rfl)

/-- The coming step is an accepting CHECKSUM_VERIFY (43_framing_checksum.md R185). -/
def Decoder.Accepts (d : Decoder) : Prop := d.st = 9#4 ∧ d.calcCk = d.rawCk

/-- A step without reset that does not accept leaves the reading. -/
theorem step_keeps_reading (s t : State) (h : step s = .next t) (hrst : s.inputs.rst = false)
    (hreject : ¬ s.dec.Accepts) : t.dec.reading = s.dec.reading := by
  obtain ⟨f, hR, ⟨rfl, u, hu, rfl⟩ | ⟨-, rfl⟩⟩ := step_shape s t h hrst
  · rw [after_dec, exec_ready_frame _ s u hu hR.inState]; rfl
  · refine runFsm_reading f s.params s.dec s.inputs s.dec fun hf hck => hreject ⟨?_, hck⟩
    rw [hR.inState, hf]; rfl

/-- A step that accepts ends the attempt with OK. -/
theorem step_of_accepts (s t : State) (h : step s = .next t) (hrst : s.inputs.rst = false)
    (haccept : s.dec.Accepts) : t.dec.st = 0#4 ∧ t.dec.result = 1#4 := by
  obtain ⟨hst, hck⟩ := haccept
  obtain ⟨f, hR, -⟩ := step_shape s t h hrst
  have hcode : fsmCode f = 9#4 := hR.inState.symm.trans hst
  rw [hcode] at hR
  rw [(checksumVerifyAcceptsOrRejects s hR).1 hck] at h
  cases h
  exact ⟨rfl, rfl⟩

/-! ## The reading of a failed attempt (43_framing_checksum.md R188) -/

/-- A run of one step and more begins with a step. -/
theorem runSteps_succ_next (n : Nat) (s t : State) (h : runSteps (n + 1) s = .next t) :
    ∃ u, step s = .next u ∧ runSteps n u = .next t := by
  simp only [runSteps] at h
  cases hs : step s with
  | next u => rw [hs] at h; exact ⟨u, rfl, h⟩
  | fault r => rw [hs] at h; cases h
  | refused r => rw [hs] at h; cases h

/-- A run without reset in which no step ends an attempt with OK leaves the reading. -/
theorem runSteps_keeps_reading (n : Nat) (s t : State) (hrst : NoReset s n) (h : runSteps n s = .next t)
    (hnotOk : ∀ m u, 0 < m → m ≤ n → runSteps m s = .next u → ¬ (u.dec.st = 0#4 ∧ u.dec.result = 1#4)) :
    t.dec.reading = s.dec.reading := by
  induction n generalizing s with
  | zero => cases h; rfl
  | succ n ih =>
    obtain ⟨u, hu, hrun⟩ := runSteps_succ_next n s t h
    have hrst0 : s.inputs.rst = false := (inputs_eq s).1.trans (hrst 0 n.succ_pos)
    have hfirst : u.dec.reading = s.dec.reading := by
      refine step_keeps_reading s u hu hrst0 fun haccept => ?_
      exact hnotOk 1 u Nat.one_pos (by omega) (runSteps_succ_of_next s u 0 hu) (step_of_accepts s u hu hrst0 haccept)
    have hrest : t.dec.reading = u.dec.reading := by
      refine ih u (fun j hj => ?_) hrun fun m v hm hle hv => ?_
      · rw [(step_environment s u hu).2 j]
        exact hrst (j + 1) (by omega)
      · exact hnotOk (m + 1) v m.succ_pos (by omega) ((runSteps_succ_of_next s u m hu).trans hv)
    exact hrest.trans hfirst

/-- Settles O42: an accepting step ends in READY with OK, and no step of an attempt that finishes otherwise does, its
last by the result and the others by being busy after it. -/
theorem failedAttemptsKeepTheReading : Obligations.FailedAttemptsKeepTheReading := by
  unfold Obligations.FailedAttemptsKeepTheReading
  refine ⟨fun s t h hrst hreject => ?_, fun s t n _ hrst h hbusy _ hresult => ?_⟩
  · exact (Decoder.reading_eq_iff _ _).1 (step_keeps_reading s t h hrst hreject)
  · have hkept : t.dec.reading = s.dec.reading := by
      refine runSteps_keeps_reading n s t hrst h fun m u hm hle hu ⟨hready, hok⟩ => ?_
      rcases hle.lt_or_eq with hlt | rfl
      · exact hbusy m u hm hlt hu hready
      · rw [h] at hu
        cases hu
        exact hresult hok
    obtain ⟨hhum, htemp, hvalid⟩ := (Decoder.reading_eq_iff _ _).1 hkept
    refine ⟨hhum, htemp, hvalid, ?_⟩
    change t.dec.temp ++ t.dec.hum = s.dec.temp ++ s.dec.hum
    rw [hhum, htemp]

end Sys2Proof.Machine

/-! The statements of 60_exceptions.md: what the end of an attempt writes, and which state can end it with which
code. -/

namespace Sys2Proof.Machine

/-! ## The gates of an attempt (60_exceptions.md R225) -/

/-- The failure that an FSM state can raise: at most one (60_exceptions.md R225). -/
def failureOf : Fsm → Option ResultCode
  | .rateCheck => some .rateLimited
  | .idleWait => some .busHung
  | .ackLowWait => some .notPresent
  | .ackHighWait => some .ackTooLong
  | .bitSyncWait => some .syncTimeout
  | .bitHighWait => some .dataTimeout
  | .checksumVerify => some .checksum
  | .ready | .startPulse | .assemble => none

/-- The FSM states that an attempt goes on to from a state (60_exceptions.md R225). The capture of a bit is followed by
the next slot or, after the last, by the assembly of the frame. -/
def successorsOf : Fsm → List Fsm
  | .rateCheck => [.idleWait]
  | .idleWait => [.startPulse]
  | .startPulse => [.ackLowWait]
  | .ackLowWait => [.ackHighWait]
  | .ackHighWait => [.bitSyncWait]
  | .bitSyncWait => [.bitHighWait]
  | .bitHighWait => [.bitSyncWait, .assemble]
  | .assemble => [.checksumVerify]
  | .ready | .checksumVerify => []

/-- No state goes on to READY: an attempt gets there by ending. -/
theorem ready_not_successor (f : Fsm) : .ready ∉ successorsOf f := by cases f <;> decide

/-- A state that raises a failure is not START_PULSE (60_exceptions.md R222). -/
theorem failing_state_ne_startPulse (f : Fsm) (c : ResultCode) (hc : failureOf f = some c) : fsmCode f ≠ 3#4 := by
  cases f with
  | startPulse => cases hc
  | _ => decide

/-- What the rule of the FSM state `f` can make of the decoder `d`: it ends the attempt with the state's own failure,
or by accepting in CHECKSUM_VERIFY; or it moves on; or it stays. -/
inductive RuleOutcome (f : Fsm) (d d' : Decoder) : Prop where
  | failed (c : ResultCode) (hc : failureOf f = some c) (hd : d' = finish c d)
  | accepted (hf : f = .checksumVerify) (hd : d' = acceptReading d d)
  | moved (g : Fsm) (hg : g ∈ successorsOf f) (hst : d'.st = fsmCode g)
  | stayed (hst : d'.st = d.st)

/-- A bounded wait whose success action moves on has one of these outcomes (41_handshake.md R140). -/
theorem Waits.outcome {p : Params} {f : Fsm} {target : Bool} {ceil : Nat} {fail : ResultCode}
    {act : Decoder → Nat → Decoder → Decoder} (hW : Waits p f target ceil fail act)
    (hfail : failureOf f = some fail) (d : Decoder) (inp : Inputs)
    (hact : ∀ c e, ∃ g ∈ successorsOf f, (act d c e).st = fsmCode g) :
    RuleOutcome f d (runFsm f p d inp d) := by
  rw [hW.rule]
  rcases wait_cases target ceil fail (act d) d inp d with ⟨-, h⟩ | ⟨-, -, h⟩ | ⟨-, -, h⟩ <;> rw [h]
  · obtain ⟨g, hg, hst⟩ := hact (d.cnt + 1) { d with cnt := 0 }
    exact .moved g hg hst
  · exact .failed fail hfail rfl
  · exact .stayed rfl

/-- The capture of a bit goes on to the next slot or to the assembly of the frame (42_bit_capture.md R162). -/
theorem captureBit_moves (p : Params) (s : Decoder) (c : Nat) (d : Decoder) :
    ∃ g ∈ successorsOf .bitHighWait, (captureBit p s c d).st = fsmCode g := by
  by_cases hlast : s.bitIdx = 40#6
  · exact ⟨.assemble, by decide, by rw [captureBit_of_last _ _ _ _ hlast, goto_st]⟩
  · exact ⟨.bitSyncWait, by decide, by rw [captureBit_of_not_last _ _ _ _ hlast, goto_st]⟩

/-- Every rule has one of these outcomes (60_exceptions.md R222, R225). -/
theorem runFsm_outcome (f : Fsm) (p : Params) (d : Decoder) (inp : Inputs) : RuleOutcome f d (runFsm f p d inp d) := by
  cases f with
  | ready => exact .stayed rfl
  | rateCheck =>
    rcases rateCheck_cases d inp d with ⟨-, h⟩ | ⟨-, h⟩ <;> rw [runFsm, h]
    · exact .failed .rateLimited rfl rfl
    · exact .moved .idleWait (by decide) rfl
  | idleWait => exact (waits_idleWait p).outcome rfl d inp fun _ _ => ⟨.startPulse, by decide, rfl⟩
  | startPulse =>
    rw [runFsm, startPulse]
    split
    · exact .moved .ackLowWait (by decide) rfl
    · exact .stayed rfl
  | ackLowWait => exact (waits_ackLowWait p).outcome rfl d inp fun _ _ => ⟨.ackHighWait, by decide, rfl⟩
  | ackHighWait => exact (waits_ackHighWait p).outcome rfl d inp fun _ _ => ⟨.bitSyncWait, by decide, rfl⟩
  | bitSyncWait => exact (waits_bitSyncWait p).outcome rfl d inp fun _ _ => ⟨.bitHighWait, by decide, rfl⟩
  | bitHighWait => exact (waits_bitHighWait p).outcome rfl d inp (captureBit_moves p d)
  | assemble => exact .moved .checksumVerify (by decide) rfl
  | checksumVerify =>
    rcases checksumVerify_cases d d with ⟨-, h⟩ | ⟨-, h⟩ <;> rw [runFsm, h]
    · exact .failed .checksum rfl rfl
    · exact .accepted rfl rfl

/-! ## One step of an attempt (60_exceptions.md R222, R225) -/

/-- A busy step without reset has one of the outcomes of its state's rule, with `cmd_err` as the host's transaction
leaves it. -/
theorem busy_step_outcome (s t : State) (h : step s = .next t) (hrst : s.inputs.rst = false)
    (hbusy : s.dec.st ≠ 0#4) :
    ∃ f d, s.dec.st = fsmCode f ∧ RuleOutcome f s.dec d ∧ t.dec = { d with cmdErr := s.errAfter } := by
  obtain ⟨f, hR, ⟨rfl, -⟩ | ⟨-, rfl⟩⟩ := step_shape s t h hrst
  · exact absurd hR.inState hbusy
  · exact ⟨f, _, hR.inState, runFsm_outcome f s.params s.dec s.inputs, rfl⟩

/-- A step that ends an attempt does so by `finish`: with its state's own failure, or by accepting in
CHECKSUM_VERIFY. -/
theorem ending_step_cases (s t : State) (h : step s = .next t) (hrst : s.inputs.rst = false)
    (hbusy : s.dec.st ≠ 0#4) (hend : t.dec.st = 0#4) :
    (∃ f c, s.dec.st = fsmCode f ∧ failureOf f = some c ∧ t.dec = { finish c s.dec with cmdErr := s.errAfter })
      ∨ (s.dec.st = 9#4 ∧ t.dec = { acceptReading s.dec s.dec with cmdErr := s.errAfter }) := by
  obtain ⟨f, d, hf, hout, ht⟩ := busy_step_outcome s t h hrst hbusy
  have hd : d.st = 0#4 := by rwa [ht] at hend
  cases hout with
  | failed c hc he => exact .inl ⟨f, c, hf, hc, by rw [ht, he]⟩
  | accepted hcheck he => subst hcheck; exact .inr ⟨hf, by rw [ht, he]⟩
  | moved g hg hst =>
    obtain rfl : g = .ready := by rwa [← fsmCode_ready_iff, ← hst]
    exact absurd hg (ready_not_successor f)
  | stayed hst => exact absurd (hst.symm.trans hd) hbusy

/-- A busy step that neither ends the attempt nor stays goes on to a successor of its state. -/
theorem moving_step_successor (s t : State) (h : step s = .next t) (hrst : s.inputs.rst = false)
    (hbusy : s.dec.st ≠ 0#4) (hgoes : t.dec.st ≠ 0#4) (hmoves : t.dec.st ≠ s.dec.st) :
    ∃ f, s.dec.st = fsmCode f ∧ ∃ g ∈ successorsOf f, t.dec.st = fsmCode g := by
  obtain ⟨f, d, hf, hout, ht⟩ := busy_step_outcome s t h hrst hbusy
  rw [ht] at hgoes hmoves ⊢
  cases hout with
  | failed c hc he => subst he; exact absurd rfl hgoes
  | accepted hcheck he => subst he; exact absurd rfl hgoes
  | moved g hg hst => exact ⟨f, hf, g, hg, hst⟩
  | stayed hst => exact absurd hst hmoves

/-- Settles O43: the step ends the attempt by `finish`, whose frame is its definition; only the accepting one adds the
reading, and its code is OK. -/
theorem finishWritesFourFields : Obligations.FinishWritesFourFields := by
  unfold Obligations.FinishWritesFourFields
  intro s t h hrst hbusy hend
  rcases ending_step_cases s t h hrst hbusy hend with ⟨f, c, hf, hc, ht⟩ | ⟨hst, ht⟩ <;> rw [ht]
  · exact ⟨rfl, fun _ => ⟨rfl, rfl, rfl⟩, hf ▸ failing_state_ne_startPulse f c hc⟩
  · exact ⟨rfl, fun hnotOk => absurd rfl hnotOk, by rw [hst]; decide⟩

/-- Settles O44: the codes are those of `failureOf` and the OK of CHECKSUM_VERIFY, the order is that of
`successorsOf`. -/
theorem eachStateRaisesItsOwnCode : Obligations.EachStateRaisesItsOwnCode := by
  unfold Obligations.EachStateRaisesItsOwnCode
  intro s t h hrst hbusy
  refine ⟨fun hend => ?_, fun hgoes hmoves => ?_⟩
  · rcases ending_step_cases s t h hrst hbusy hend with ⟨f, c, hf, hc, ht⟩ | ⟨hst, ht⟩ <;> rw [ht]
    · change (s.dec.st, resultCode c) ∈ _
      rw [hf]
      cases f <;> cases hc <;> decide
    · change (s.dec.st, 1#4) ∈ _
      rw [hst]
      decide
  · obtain ⟨f, hf, g, hg, hst⟩ := moving_step_successor s t h hrst hbusy hgoes hmoves
    rw [hf, hst]
    clear hst
    revert g
    cases f <;> decide

end Sys2Proof.Machine

/-! The statement of 70_reset_and_hazards.md: a step with reset overrides the decoder and every other input. -/

namespace Sys2Proof.Machine

/-- A step with reset in a legal instance skips the transaction and the FSM state's rule, so neither can stop it
(70_reset_and_hazards.md R250). -/
theorem step_of_reset (s : State) (hlegal : s.params.legal = true) (hrst : s.inputs.rst = true) :
    step s = .next s.resetStep := by
  rw [step, if_pos hlegal, if_pos hrst]

/-- The reset step leaves RESET_STATE and shows the ports of the state before it (70_reset_and_hazards.md R251). -/
theorem resetStep_eq_after (s : State) : s.resetStep = s.after Decoder.resetState := rfl

/-- Every word of RESET_STATE reads 0 (70_reset_and_hazards.md R250). -/
theorem regRead_resetState (idx : WordIdx) : regRead Decoder.resetState idx = 0#32 := by
  revert idx
  decide

/-- Every output port is 0 in RESET_STATE, whichever word the host addresses (70_reset_and_hazards.md R250). -/
theorem outputs_resetState (idx : WordIdx) :
    outputs Decoder.resetState idx = { lineDriveLow := false, regRdata := 0#32, busy := false, done := false } := by
  rw [outputs, regRead_resetState]
  rfl

/-- Settles O18: the step is the reset step, which asks nothing of the decoder before it; the decoder it leaves is
RESET_STATE, whose ports are all 0. -/
theorem resetOverridesEverything : Obligations.ResetOverridesEverything := by
  unfold Obligations.ResetOverridesEverything
  intro s hlegal hrst
  refine ⟨Decoder.resetState, ?_, rfl, outputs_resetState⟩
  rw [step_of_reset s hlegal hrst, resetStep_eq_after]

end Sys2Proof.Machine

/-! The statements of 30_encoding.md sections 1 and 2: decoder and encoder are inverse to each other, and a presented
word is the one fetched. -/

namespace Sys2Proof.Machine

/-! ## Round trips (30_encoding.md R81 to R85) -/

/-- Settles O1: each format decodes field by field, and the word index of a row with several words is one of them. -/
theorem decodeOfEncodeIsTheInstruction : Obligations.DecodeOfEncodeIsTheInstruction := by
  unfold Obligations.DecodeOfEncodeIsTheInstruction
  intro i hwf
  cases i with
  | nop ign | attemptRead ign | resetClockRef ign | cmdReserved ign => exact decode_encodeCommand ign _
  | rdCtrl ign | rdStatus ign | rdReading ign | rdRaw ign | rdCheck ign | rdLastMs ign =>
    exact decode_encodeRead _ ign
  | wrIgnored1 data => exact decode_encodeIgnoredWrite 1#3 data
  | rdUnmapped idx ign =>
    obtain rfl | rfl : idx = 6#3 ∨ idx = 7#3 := by simpa [Instr.wf] using hwf
    all_goals exact decode_encodeRead _ ign
  | wrIgnored23 idx data =>
    obtain rfl | rfl : idx = 2#3 ∨ idx = 3#3 := by simpa [Instr.wf] using hwf
    all_goals exact decode_encodeIgnoredWrite _ data
  | wrIgnored47 idx data =>
    obtain rfl | rfl | rfl | rfl : idx = 4#3 ∨ idx = 5#3 ∨ idx = 6#3 ∨ idx = 7#3 := by
      simpa [Instr.wf, or_assoc] using hwf
    all_goals exact decode_encodeIgnoredWrite _ data

/-- A command is encoded with its own code (30_encoding.md R84). -/
theorem encode_decodeCommand (cmd : BitVec 2) (ign : BitVec 30) :
    encode (decodeCommand cmd ign) = encodeCommand ign cmd := by
  unfold decodeCommand
  split <;> rfl

/-- A read is encoded with its own word index (30_encoding.md R81 format RD). -/
theorem encode_decodeRead (addr : WordIdx) (ign : BitVec 32) :
    encode (decodeRead addr ign) = encodeRead addr ign := by
  unfold decodeRead
  split <;> rfl

/-- The data of a command is its ignored bits and its code. -/
theorem command_data_append (data : Word) : data.extractLsb' 2 30 ++ data.extractLsb' 0 2 = data := by
  have hall : data.extractLsb' 2 30 ++ data.extractLsb' 0 2 = data.extractLsb' 0 32 :=
    BitVec.extractLsb'_append_extractLsb'_eq_extractLsb' rfl
  rw [hall, BitVec.extractLsb'_eq_self]

/-- A write is encoded with its own word index and data (30_encoding.md R81 formats CMD and WRI). -/
theorem encode_decodeWrite (addr : WordIdx) (data : Word) :
    encode (decodeWrite addr data) = encodeIgnoredWrite addr data := by
  unfold decodeWrite
  split
  · rw [encode_decodeCommand, encodeCommand_eq_write, command_data_append]
  all_goals rfl

/-- Settles O2: the word is its strobe, its word index and its data, and each is encoded as it was decoded. -/
theorem encodeOfDecodeIsTheWord : Obligations.EncodeOfDecodeIsTheWord := by
  unfold Obligations.EncodeOfDecodeIsTheWord
  intro w
  have hw : BitVec.ofBool (w.getLsbD 35) ++ w.extractLsb' 32 3 ++ w.extractLsb' 0 32 = w := withTw_tw default w
  unfold decode
  split
  next hwrite =>
    rw [hwrite] at hw
    rw [encode_decodeWrite]
    exact hw
  next hread =>
    rw [Bool.not_eq_true] at hread
    rw [hread] at hw
    rw [encode_decodeRead]
    exact hw

/-- What the decoder answers names a word of its row (30_encoding.md R83). -/
theorem decode_wf (w : TxWord) : (decode w).wf = true := by
  unfold decode
  split
  · unfold decodeWrite
    split
    · unfold decodeCommand
      split <;> rfl
    all_goals rfl
  · unfold decodeRead
    split <;> rfl

/-- Settles O4: each word is evaluated. -/
theorem writtenWordsDecode : Obligations.WrittenWordsDecode := by
  unfold Obligations.WrittenWordsDecode
  decide

/-! ## Presenting a word (30_encoding.md R80) -/

/-- The schedule after the coming step is not touched by the word presented in it (log 1). -/
theorem withTransaction_presented_succ (s : State) (w : TxWord) (n : Nat) :
    (s.withTransaction w).presented (n + 1) = s.presented (n + 1) := by
  simp only [State.presented, State.withTransaction, List.drop_succ_cons, List.drop_tail]

/-- Settles O5: the presented inputs are those of the schedule with the word's fields on the ports. -/
theorem presentedWordIsFetched : Obligations.PresentedWordIsFetched := by
  unfold Obligations.PresentedWordIsFetched
  intro s w
  exact ⟨⟨withTransaction_fetch s w, withTw_tw (s.presented 0) w⟩, ⟨rfl, rfl, rfl⟩, rfl,
    ⟨rfl, rfl, withTransaction_presented_succ s w⟩, rfl, rfl, rfl, rfl⟩

end Sys2Proof.Machine

/-! The statements of 40_command_interface.md sections 2 and 4, and the register words of 10_state.md section 6: the
accepted commands and the register reads. -/

namespace Sys2Proof.Machine

/-- Settles O7: the accepted command makes the writes of AcceptAttempt (R114). -/
theorem attemptReadStartsInReady : Obligations.AttemptReadStartsInReady := by
  unfold Obligations.AttemptReadStartsInReady
  intro ign s hready
  exact exec_attemptRead_of_ready ign s hready

/-- Settles O8: the accepted command makes the writes of AcceptClockRef (R115). -/
theorem resetClockRefRebasesInReady : Obligations.ResetClockRefRebasesInReady := by
  unfold Obligations.ResetClockRefRebasesInReady
  intro ign s hready
  exact exec_resetClockRef_of_ready ign s hready

/-- Settles O13: a register read is one of the transactions that write nothing, and `RegRead` of its word index is the
word spelled out. -/
theorem registerReadsShowTheirWord : Obligations.RegisterReadsShowTheirWord := by
  unfold Obligations.RegisterReadsShowTheirWord
  intro ign s
  exact ⟨exec_of_writesNothing (.rdStatus ign) s rfl, exec_of_writesNothing (.rdReading ign) s rfl,
    exec_of_writesNothing (.rdRaw ign) s rfl, exec_of_writesNothing (.rdCheck ign) s rfl,
    exec_of_writesNothing (.rdLastMs ign) s rfl⟩

/-- The halves of a word. -/
theorem halves_of_append (hi lo : Half) : (hi ++ lo).extractLsb' 0 16 = lo ∧ (hi ++ lo).extractLsb' 16 16 = hi := by
  rw [BitVec.extractLsb'_append_eq_of_add_le (by decide), BitVec.extractLsb'_append_eq_of_le (by decide)]
  exact ⟨BitVec.extractLsb'_eq_self, BitVec.extractLsb'_eq_self⟩

/-- CHECK with its width written as the sum of its fields' widths. -/
theorem checkWord_eq_fields (d : Decoder) :
    checkWord d = BitVec.cast (show 16 + 8 + 8 = 32 from rfl) (0#16 ++ d.calcCk ++ d.rawCk) := rfl

/-- The fields of CHECK (10_state.md R34). -/
theorem checkWord_fields (d : Decoder) :
    (checkWord d).extractLsb' 0 8 = d.rawCk ∧ (checkWord d).extractLsb' 8 8 = d.calcCk
      ∧ (checkWord d).extractLsb' 16 16 = 0#16 := by
  rw [checkWord_eq_fields]
  refine ⟨?_, ?_, ?_⟩ <;>
    simp (disch := decide) only [BitVec.extractLsb'_cast, BitVec.extractLsb'_append_eq_of_le,
      BitVec.extractLsb'_append_eq_of_add_le, BitVec.extractLsb'_eq_self, Nat.reduceSub]

/-- Settles O15: READING and RAW are two halves, CHECK two bytes under 16 zeros; the other words are given whole. -/
theorem readingRawCheckFieldsSitAtTheirBits : Obligations.ReadingRawCheckFieldsSitAtTheirBits := by
  unfold Obligations.ReadingRawCheckFieldsSitAtTheirBits
  intro d
  exact ⟨halves_of_append d.temp d.hum, halves_of_append d.rawTemp d.rawHum, checkWord_fields d, rfl, rfl, rfl, rfl⟩

end Sys2Proof.Machine

/-! The invariant of 10_state.md: what each write of a step needs in order to keep it, every step keeps it, and so no
run from a state that has it ever stops. -/

namespace Sys2Proof.Machine

/-! ## RESET_STATE (70_reset_and_hazards.md R250) -/

/-- In a legal instance `cnt = 0` is below every bound (10_state.md R23). -/
theorem cntBound_pos {p : Params} (hlegal : p.legal = true) (st : BitVec 4) : 0 < cntBound p st := by
  obtain ⟨hidle, hhold, hackLow, hackHigh, hsync, hdata⟩ := (legal_iff p).1 hlegal
  unfold cntBound
  split <;> omega

/-- RESET_STATE is a reachable state of every legal instance. -/
theorem inv_resetState {p : Params} (hlegal : p.legal = true) : Decoder.Inv p Decoder.resetState := by
  constructor
  case cnt => exact cntBound_pos hlegal _
  all_goals decide

/-- The instance of the state after reset is legal (log 2). -/
theorem params_legal : Config.params.legal = true := by
  simp [legal_iff, Config.params]

/-- Settles O47: the decoder after reset is RESET_STATE and its instance is legal. -/
theorem resetStateHasTheInvariant : Obligations.ResetStateHasTheInvariant := by
  unfold Obligations.ResetStateHasTheInvariant
  exact ⟨params_legal, inv_resetState params_legal⟩

/-! ## The writes of a step

Each lemma names the clauses of the invariant that a write touches; the other clauses carry over. -/

/-- Code 9 is CHECKSUM_VERIFY's alone (10_state.md R21). -/
theorem fsmCode_checksumVerify_iff (f : Fsm) : fsmCode f = 9#4 ↔ f = .checksumVerify := by cases f <;> decide

section
variable {p : Params} {d : Decoder}

/-- No clause speaks of `cmd_err`. -/
theorem Decoder.Inv.setCmdErr (h : Decoder.Inv p d) (e : Bool) : Decoder.Inv p { d with cmdErr := e } :=
  { h with }

/-- A count below the state's bound (10_state.md R23). -/
theorem Decoder.Inv.setCnt (h : Decoder.Inv p d) {n : Nat} (hn : n < cntBound p d.st) :
    Decoder.Inv p { d with cnt := n } :=
  { h with cnt := hn }

/-- A timestamp is recorded (10_state.md R26). -/
theorem Decoder.Inv.record (h : Decoder.Inv p d) (now : Word) :
    Decoder.Inv p { d with lastMs := now, attempted := true } :=
  { h with
    stamped := fun _ => rfl
    fresh := by simp }

/-- An attempt is accepted (40_command_interface.md R114). -/
theorem Decoder.Inv.accept (h : Decoder.Inv p d) (hready : d.st = 0#4) :
    Decoder.Inv p { d with st := 1#4, done := false } :=
  { h with
    fsm := by simp
    cnt := by
      have hcnt := h.cnt
      rw [hready] at hcnt
      exact hcnt
    frame := by simp
    complete := by simp
    assembled := by simp
    busy := fun _ => rfl
    outcome := by simp
    stamped := by simp
    afterOk := fun hres _ => h.afterOk hres (by simp [hready])
    afterChecksum := fun hres _ => h.afterChecksum hres (by simp [hready]) }

/-- An attempt moves on to a state `g` before CHECKSUM_VERIFY; what `g` promises of the frame is asked for. -/
theorem Decoder.Inv.goto (h : Decoder.Inv p d) (hlegal : p.legal = true) {f : Fsm} (hst : d.st = fsmCode f)
    (hf : f ≠ .ready ∧ f ≠ .checksumVerify) (hstamped : d.attempted = true) (hcnt : d.cnt = 0) (g : Fsm)
    (hg : g ≠ .checksumVerify)
    (hframe : g = .bitSyncWait ∨ g = .bitHighWait → d.frame.toNat < 2 ^ d.bitIdx.toNat)
    (hcomplete : g = .assemble → d.bitIdx = 40#6) : Decoder.Inv p (goto g d) := by
  have hbusy : d.st ≠ 0#4 := by rw [hst, Ne, fsmCode_ready_iff]; exact hf.1
  have hbefore : d.st ≠ 9#4 := by rw [hst, Ne, fsmCode_checksumVerify_iff]; exact hf.2
  exact { h with
    fsm := by rw [goto_st]; cases g <;> decide
    cnt := by rw [goto_cnt, hcnt]; exact cntBound_pos hlegal _
    frame := fun hor => hframe (by revert hor; rw [goto_st]; cases g <;> decide)
    complete := fun hor => hcomplete (by revert hor hg; rw [goto_st]; cases g <;> decide)
    assembled := fun he => absurd ((fsmCode_checksumVerify_iff g).1 he) hg
    busy := fun _ => h.busy hbusy
    stamped := fun _ => hstamped
    afterOk := fun hres _ => h.afterOk hres hbefore
    afterChecksum := fun hres _ => h.afterChecksum hres hbefore }

/-- The handshake moves on: no state before the capture promises anything of the frame. -/
theorem Decoder.Inv.gotoHandshake (h : Decoder.Inv p d) (hlegal : p.legal = true) {f : Fsm}
    (hst : d.st = fsmCode f) (hf : f ≠ .ready ∧ f ≠ .checksumVerify) (hstamped : d.attempted = true)
    (hcnt : d.cnt = 0) (g : Fsm) (hg : g ∈ [.idleWait, .startPulse, .ackLowWait, .ackHighWait]) :
    Decoder.Inv p (Machine.goto g d) := by
  refine h.goto hlegal hst hf hstamped hcnt g ?_ (fun hcapture => ?_) fun hassemble => ?_
  · rintro rfl; simp at hg
  · rcases hcapture with rfl | rfl <;> simp at hg
  · subst hassemble; simp at hg

/-- An attempt ends with an outcome that is true of the decoder (60_exceptions.md R222). -/
theorem Decoder.Inv.finish (h : Decoder.Inv p d) (hlegal : p.legal = true) (hstamped : d.attempted = true)
    (c : ResultCode) (hnone : c ≠ .none)
    (hok : c = .ok → d.calcCk = d.rawCk ∧ d.hum = humOf d.rawHum ∧ d.temp = tempOf d.rawTemp ∧ d.valid = true)
    (hchecksum : c = .checksum → d.calcCk ≠ d.rawCk) : Decoder.Inv p (finish c d) :=
  { h with
    fsm := by simp
    result := resultCode_toNat_le c
    cnt := cntBound_pos hlegal _
    frame := by simp
    complete := by simp
    assembled := by simp
    busy := fun hst => absurd rfl hst
    outcome := fun _ => by revert hnone; rw [finish_result]; cases c <;> decide
    stamped := by simp
    fresh := by simp [hstamped]
    afterOk := fun hres _ => hok (by revert hres; rw [finish_result]; cases c <;> decide)
    afterChecksum := fun hres _ => hchecksum (by revert hres; rw [finish_result]; cases c <;> decide) }

/-- A failure other than CHECKSUM says nothing of the checksums. -/
theorem Decoder.Inv.finishFailed (h : Decoder.Inv p d) (hlegal : p.legal = true) (hstamped : d.attempted = true)
    (c : ResultCode) (hc : c ≠ .none ∧ c ≠ .ok ∧ c ≠ .checksum) : Decoder.Inv p (Machine.finish c d) :=
  h.finish hlegal hstamped c hc.1 (fun he => absurd he hc.2.1) fun he => absurd he hc.2.2

/-- The capture begins at slot 0 with an empty frame, in a state that promises nothing of it
(41_handshake.md R145). -/
theorem Decoder.Inv.emptyFrame (h : Decoder.Inv p d) (hst : d.st = 5#4) :
    Decoder.Inv p { d with bitIdx := 0#6, frame := 0#41 } :=
  { h with
    bitIdx := by simp
    frame := by simp [hst]
    complete := by simp [hst]
    assembled := by simp [hst] }

/-- The index moves on with the captured bit, so no bit drops out (42_bit_capture.md R164). -/
theorem Decoder.Inv.captureBefore (h : Decoder.Inv p d) (hst : d.st = 7#4) (hidx : d.bitIdx ≠ 40#6) (b : Bool) :
    Decoder.Inv p { d with frame := shiftFrame d.frame b, bitIdx := d.bitIdx + 1#6 } := by
  have hbound := h.bitIdx
  have hnext : (d.bitIdx + 1#6).toNat = d.bitIdx.toNat + 1 := by bv_omega
  have hframe : (shiftFrame d.frame b).toNat < 2 ^ (d.bitIdx.toNat + 1) := by
    have hbefore := h.frame (.inr hst)
    have hb : b.toNat < 2 := b.toNat_lt
    rw [shiftFrame_toNat, pow_succ]
    exact lt_of_le_of_lt (Nat.mod_le _ _) (by omega)
  exact { h with
    bitIdx := by bv_omega
    frame := fun _ => by rw [hnext]; exact hframe
    complete := by simp [hst]
    assembled := by simp [hst] }

/-- In ASSEMBLE the frame may hold all 41 bits. -/
theorem Decoder.Inv.setFrame (h : Decoder.Inv p d) (hst : d.st = 8#4) (f : Frame) :
    Decoder.Inv p { d with frame := f } :=
  { h with
    frame := by simp [hst]
    assembled := by simp [hst] }

/-- ASSEMBLE fills the diagnostic registers from the frame (43_framing_checksum.md R180). -/
theorem Decoder.Inv.assemble (h : Decoder.Inv p d) (hst : d.st = 8#4) : Decoder.Inv p (assemble d d) :=
  { h with
    fsm := (by decide : (9#4 : BitVec 4).toNat ≤ 9)
    cnt := by
      have hcnt := h.cnt
      rw [hst] at hcnt
      exact hcnt
    frame := by simp [Machine.assemble, fsmCode]
    complete := fun _ => h.complete (.inl hst)
    assembled := fun _ => ⟨rfl, rfl, rfl⟩
    checksumOfRaw := rfl
    busy := fun _ => h.busy (by simp [hst])
    stamped := fun _ => h.stamped (by simp [hst])
    afterOk := fun _ hne => absurd rfl hne
    afterChecksum := fun _ hne => absurd rfl hne }

/-- A magnitude has no bit 15 (43_framing_checksum.md R183). -/
theorem humOf_getLsbD_15 (f : Half) : (humOf f).getLsbD 15 = false := by
  simp [humOf]

/-- A sign and a magnitude never give 0x8000 (43_framing_checksum.md R184). -/
theorem tempOf_ne_min (f : Half) : tempOf f ≠ 0x8000#16 := by
  obtain ⟨-, -, hmin, -⟩ := reconstructionMasksAndSigns 0#16 f
  intro he
  rw [he] at hmin
  exact absurd hmin (by decide)

/-- In CHECKSUM_VERIFY the reading of RAW may be cached (43_framing_checksum.md R185). -/
theorem Decoder.Inv.cacheReading (h : Decoder.Inv p d) (hst : d.st = 9#4) (hstamped : d.attempted = true) :
    Decoder.Inv p { d with hum := humOf d.rawHum, temp := tempOf d.rawTemp, valid := true } :=
  { h with
    hum := humOf_getLsbD_15 _
    temp := tempOf_ne_min _
    fresh := by simp [hstamped]
    unread := by simp
    afterOk := fun _ hne => absurd hst hne }

/-! ## The rules of the FSM states -/

/-- A bounded wait keeps the invariant where its success action does (41_handshake.md R140). -/
theorem Waits.inv {f : Fsm} {target : Bool} {ceil : Nat} {fail : ResultCode}
    {act : Decoder → Nat → Decoder → Decoder} (hW : Waits p f target ceil fail act) (h : Decoder.Inv p d)
    (hlegal : p.legal = true) (hst : d.st = fsmCode f) (hstamped : d.attempted = true)
    (hceil : cntBound p (fsmCode f) = ceil) (hfail : fail ≠ .none ∧ fail ≠ .ok ∧ fail ≠ .checksum)
    (inp : Inputs) (hact : ∀ c, Decoder.Inv p { d with cnt := 0 } → Decoder.Inv p (act d c { d with cnt := 0 })) :
    Decoder.Inv p (runFsm f p d inp d) := by
  rw [hW.rule]
  rcases wait_cases target ceil fail (act d) d inp d with ⟨-, he⟩ | ⟨-, -, he⟩ | ⟨-, hlt, he⟩ <;> rw [he]
  · exact hact _ (h.setCnt (cntBound_pos hlegal _))
  · exact h.finishFailed hlegal hstamped fail hfail
  · exact h.setCnt (by rwa [hst, hceil])

/-- The capture of a bit keeps the invariant (42_bit_capture.md R162). -/
theorem Decoder.Inv.captureBit (h : Decoder.Inv p d) (hlegal : p.legal = true)
    (hst : d.st = fsmCode .bitHighWait) (hstamped : d.attempted = true) (hcnt : d.cnt = 0) (s : Decoder)
    (hidx : s.bitIdx = d.bitIdx) (hframe : s.frame = d.frame) (c : Nat) :
    Decoder.Inv p (captureBit p s c d) := by
  by_cases hlast : s.bitIdx = 40#6
  · rw [captureBit_of_last _ _ _ _ hlast]
    have hassemble : Decoder.Inv p (Machine.goto .assemble d) :=
      h.goto hlegal hst (by decide) hstamped hcnt .assemble (by decide) (by simp) fun _ => hidx.symm.trans hlast
    exact hassemble.setFrame rfl _
  · rw [captureBit_of_not_last _ _ _ _ hlast, hframe, hidx]
    have hcaptured := h.captureBefore hst (hidx ▸ hlast) (bitOf p c)
    exact hcaptured.goto hlegal hst (by decide) hstamped hcnt .bitSyncWait (by decide)
      (fun _ => hcaptured.frame (.inr hst)) (by simp)

/-- From IDLE_WAIT on the attempt has been recorded (10_state.md R26). -/
theorem Decoder.Inv.attempted_of_fsm (h : Decoder.Inv p d) {f : Fsm} (hst : d.st = fsmCode f)
    (hf : f ≠ .ready ∧ f ≠ .rateCheck) : d.attempted = true :=
  h.stamped (by rw [hst]; revert hf; cases f <;> decide)

/-- The rule of every FSM state keeps the invariant. -/
theorem Decoder.Inv.runFsm (h : Decoder.Inv p d) (hlegal : p.legal = true) (f : Fsm) (hst : d.st = fsmCode f)
    (inp : Inputs) : Decoder.Inv p (runFsm f p d inp d) := by
  cases f with
  | ready => exact h
  | rateCheck =>
    rcases rateCheck_cases d inp d with ⟨hlim, he⟩ | ⟨-, he⟩ <;> rw [Machine.runFsm, he]
    · obtain ⟨hattempted, -⟩ := (rateLimits_iff d inp.nowMs).1 hlim
      exact h.finishFailed hlegal hattempted .rateLimited (by decide)
    · exact ((h.record inp.nowMs).setCnt (cntBound_pos hlegal _)).gotoHandshake hlegal hst (by decide) rfl rfl
        .idleWait (by decide)
  | idleWait =>
    have hstamped := h.attempted_of_fsm hst (by decide)
    exact (waits_idleWait p).inv h hlegal hst hstamped rfl (by decide) inp fun _ h0 =>
      h0.gotoHandshake hlegal hst (by decide) hstamped rfl .startPulse (by decide)
  | startPulse =>
    have hstamped := h.attempted_of_fsm hst (by decide)
    rw [Machine.runFsm, startPulse]
    split
    · exact (h.setCnt (cntBound_pos hlegal _)).gotoHandshake hlegal hst (by decide) hstamped rfl .ackLowWait
        (by decide)
    · exact h.setCnt (by rw [hst]; change _ < p.startHold; omega)
  | ackLowWait =>
    have hstamped := h.attempted_of_fsm hst (by decide)
    exact (waits_ackLowWait p).inv h hlegal hst hstamped rfl (by decide) inp fun _ h0 =>
      h0.gotoHandshake hlegal hst (by decide) hstamped rfl .ackHighWait (by decide)
  | ackHighWait =>
    have hstamped := h.attempted_of_fsm hst (by decide)
    exact (waits_ackHighWait p).inv h hlegal hst hstamped rfl (by decide) inp fun _ h0 =>
      (h0.emptyFrame hst).goto hlegal hst (by decide) hstamped rfl .bitSyncWait (by decide)
        (fun _ => Nat.one_pos) (by simp)
  | bitSyncWait =>
    have hstamped := h.attempted_of_fsm hst (by decide)
    exact (waits_bitSyncWait p).inv h hlegal hst hstamped rfl (by decide) inp fun _ h0 =>
      h0.goto hlegal hst (by decide) hstamped rfl .bitHighWait (by decide)
        (fun _ => h0.frame (.inl hst)) (by simp)
  | bitHighWait =>
    have hstamped := h.attempted_of_fsm hst (by decide)
    exact (waits_bitHighWait p).inv h hlegal hst hstamped rfl (by decide) inp fun c h0 =>
      h0.captureBit hlegal hst hstamped rfl d rfl rfl c
  | assemble => exact h.assemble hst
  | checksumVerify =>
    have hstamped := h.attempted_of_fsm hst (by decide)
    rcases checksumVerify_cases d d with ⟨hck, he⟩ | ⟨hck, he⟩ <;> rw [Machine.runFsm, he]
    · exact h.finish hlegal hstamped .checksum (by decide) (by simp) fun _ => hck
    · exact (h.cacheReading hst hstamped).finish hlegal hstamped .ok (by decide)
        (fun _ => ⟨hck, rfl, rfl, rfl⟩) (by simp)

end

/-! ## The step -/

/-- A host transaction in READY keeps the invariant (40_command_interface.md R112). -/
theorem exec_ready_inv (s u : State) (h : Decoder.Inv s.params s.dec) (hready : s.dec.st = 0#4)
    (hu : exec s.fetch s = .next u) : Decoder.Inv s.params u.dec := by
  rcases exec_ready_dec s u hready hu with ⟨-, hd⟩ | ⟨-, hd⟩ | ⟨-, hd⟩ | ⟨-, hd⟩ <;> rw [hd]
  · exact h
  · exact (h.accept hready).setCmdErr false
  · exact (h.record s.inputs.nowMs).setCmdErr false
  · exact h.setCmdErr true

/-- Settles O46: a reset step leaves RESET_STATE; a step in READY leaves what its transaction leaves; a busy step
leaves what the rule of its state leaves, but for `cmd_err`. -/
theorem everyStepKeepsTheInvariant : Obligations.EveryStepKeepsTheInvariant := by
  unfold Obligations.EveryStepKeepsTheInvariant
  intro s t ⟨hlegal, hdec⟩ h
  by_cases hrst : s.inputs.rst = true
  · rw [step_of_reset s hlegal hrst] at h
    cases h
    exact ⟨hlegal, inv_resetState hlegal⟩
  · obtain ⟨f, hR, ⟨rfl, u, hu, rfl⟩ | ⟨-, rfl⟩⟩ := step_shape s t h (by simpa using hrst)
    · exact ⟨hlegal, exec_ready_inv s u hdec hR.inState hu⟩
    · exact ⟨hlegal, (hdec.runFsm hlegal f hR.inState s.inputs).setCmdErr s.errAfter⟩

end Sys2Proof.Machine

/-! The statements about one step as a whole: what it is made of (40_command_interface.md section 1), where it stops
(00_scope.md section 5), what it shows (10_state.md section 7) and what it does not read (10_state.md section 8,
20_memory.md section 3); and the runs that never stop. -/

namespace Sys2Proof.Machine

/-! ## The parts of a step (40_command_interface.md R110) -/

/-- In a legal instance without reset a step executes its transaction and is then ended. -/
theorem step_eq_endStep (s : State) (hlegal : s.params.legal = true) (hrst : s.inputs.rst = false) :
    ∃ u, exec s.fetch s = .next u ∧ step s = endStep s u := by
  obtain ⟨d, hd, -⟩ := exec_cases s.fetch s
  refine ⟨_, hd, ?_⟩
  simp only [step, hlegal, hrst, hd, if_true, Bool.false_eq_true, if_false]

/-- Ending a step is the dispatch of its FSM state: it leaves the rule's decoder or faults. -/
theorem endStep_cases (s u : State) :
    (∃ d, dispatch s.params s.dec s.inputs u.dec = .ok d ∧ endStep s u = .next (u.withDec d).advance)
      ∨ ∃ r, dispatch s.params s.dec s.inputs u.dec = .error r ∧ endStep s u = .fault r := by
  unfold endStep
  cases dispatch s.params s.dec s.inputs u.dec with
  | ok d => exact .inl ⟨d, rfl, rfl⟩
  | error r => exact .inr ⟨r, rfl, rfl⟩

/-- Settles O16: a legal step without reset executes the transaction it fetches and is ended by the dispatch. -/
theorem stepRunsTheDecodedInstruction : Obligations.StepRunsTheDecodedInstruction := by
  unfold Obligations.StepRunsTheDecodedInstruction
  rintro s i hlegal hrst rfl
  refine ⟨decode_wf _, ?_⟩
  obtain ⟨u, hu, hstep⟩ := step_eq_endStep s hlegal hrst
  have hexec : exec (decode s.inputs.tw) s = .next u := hu
  simp only [hstep, hexec]
  obtain ⟨d, hd, hend⟩ | ⟨r, hr, hend⟩ := endStep_cases s u
  · simp only [hend, hd]; rfl
  · simp only [hend, hr]

/-! ## The stops (logs 5, 6 and 7) -/

/-- The codes of no FSM state (10_state.md R21). -/
theorem fsmOf_eq_none : ∀ code : BitVec 4, 10 ≤ code.toNat → fsmOf code = none := by decide

/-- The codes 0 to 9 are those of the FSM states (10_state.md R21). -/
theorem fsmOf_isSome : ∀ code : BitVec 4, code.toNat ≤ 9 → (fsmOf code).isSome = true := by decide

/-- Dispatch faults on a code of no FSM state (log 5). -/
theorem dispatch_of_no_fsm (p : Params) (s d : Decoder) (inp : Inputs) (hst : 10 ≤ s.st.toNat) :
    dispatch p s inp d = .error .unreachableFsmCode := by
  simp only [dispatch, fsmOf_eq_none s.st hst]

/-- Dispatch faults on a number that is no result code (log 6). -/
theorem dispatch_of_no_result (p : Params) (s d : Decoder) (inp : Inputs) (hst : s.st.toNat ≤ 9)
    (hres : 9 ≤ s.result.toNat) : dispatch p s inp d = .error .unreachableResultCode := by
  obtain ⟨f, hf⟩ := Option.isSome_iff_exists.1 (fsmOf_isSome s.st hst)
  have hnone : resultCodeExists s.result = false := decide_eq_false (by omega)
  simp only [dispatch, hf, hnone, Bool.false_eq_true, if_false]

/-- A step whose dispatch faults stops with that fault. -/
theorem step_of_dispatch_error (s : State) (hlegal : s.params.legal = true) (hrst : s.inputs.rst = false)
    (r : Fault) (hr : ∀ d, dispatch s.params s.dec s.inputs d = .error r) : step s = .fault r := by
  obtain ⟨u, -, hstep⟩ := step_eq_endStep s hlegal hrst
  rw [hstep, endStep, hr]

/-- A step in a legal instance whose codes exist answers a next state. -/
theorem step_next_of_codes (s : State) (hlegal : s.params.legal = true)
    (hcodes : s.inputs.rst = true ∨ (s.dec.st.toNat ≤ 9 ∧ s.dec.result.toNat ≤ 8)) : ∃ t, step s = .next t := by
  by_cases hrst : s.inputs.rst = true
  · exact ⟨_, step_of_reset s hlegal hrst⟩
  · obtain ⟨hst, hres⟩ := hcodes.resolve_left hrst
    obtain ⟨f, hf⟩ := Option.isSome_iff_exists.1 (fsmOf_isSome s.dec.st hst)
    obtain ⟨u, -, hstep⟩ := step_eq_endStep s hlegal (by simpa using hrst)
    rw [hstep, endStep, dispatch_of_codes _ _ _ _ f hf (decide_eq_true hres)]
    exact ⟨_, rfl⟩

/-- A legal instance is never refused (log 7). -/
theorem step_not_refused (s : State) (hlegal : s.params.legal = true) (r : Refusal) : step s ≠ .refused r := by
  by_cases hrst : s.inputs.rst = true
  · rw [step_of_reset s hlegal hrst]
    exact nofun
  · obtain ⟨u, -, hstep⟩ := step_eq_endStep s hlegal (by simpa using hrst)
    obtain ⟨d, -, hend⟩ | ⟨f, -, hend⟩ := endStep_cases s u <;> rw [hstep, hend] <;> exact nofun

/-- A step is refused exactly where the instance is illegal (log 7). -/
theorem step_refused_iff (s : State) : step s = .refused .illegalParams ↔ ¬ s.params.legal = true :=
  ⟨fun hrefused hlegal => step_not_refused s hlegal _ hrefused, step_of_illegal s⟩

/-- Settles O20: an illegal instance is refused; in a legal one only the dispatch can stop the step, by its two
faults. -/
theorem machineStopsOnlyAsListed : Obligations.MachineStopsOnlyAsListed := by
  unfold Obligations.MachineStopsOnlyAsListed
  intro s
  refine ⟨?_, fun hlegal hrst => ⟨fun hst => ?_, fun hst hres => ?_⟩, step_next_of_codes s⟩
  · rw [step_refused_iff, legal_iff]
    omega
  · exact step_of_dispatch_error s hlegal hrst _ fun d => dispatch_of_no_fsm _ _ d _ hst
  · exact step_of_dispatch_error s hlegal hrst _ fun d => dispatch_of_no_result _ _ d _ hst hres

/-- Settles O48: the next state of a state of the invariant exists, because its codes do, and has the invariant. -/
theorem reachableRunsNeverStop : Obligations.ReachableRunsNeverStop := by
  unfold Obligations.ReachableRunsNeverStop
  intro s n hI
  induction n generalizing s with
  | zero => exact ⟨s, rfl⟩
  | succ n ih =>
    obtain ⟨t, ht⟩ := step_next_of_codes s hI.legal (.inr ⟨hI.dec.fsm, hI.dec.result⟩)
    obtain ⟨v, hv⟩ := ih t (everyStepKeepsTheInvariant s t hI ht)
    exact ⟨v, (runSteps_succ_of_next s t n ht).trans hv⟩

/-! ## The ports and the environment (10_state.md R37) -/

/-- Whatever a step leaves in the decoder, the rest of the machine is that of `State.after`. -/
theorem step_eq_after (s t : State) (h : step s = .next t) : t = s.after t.dec := by
  by_cases hrst : s.inputs.rst = true
  · obtain ⟨hlegal, -⟩ := step_next_cases s t h
    rw [step_of_reset s hlegal hrst] at h
    cases h
    rfl
  · obtain ⟨f, -, ⟨-, u, -, rfl⟩ | ⟨-, rfl⟩⟩ := step_shape s t h (by simpa using hrst) <;> rfl

/-- Settles O21: the ports seen, the instance and the schedule are those of `State.after`. -/
theorem outputsAreMooreOutputs : Obligations.OutputsAreMooreOutputs := by
  unfold Obligations.OutputsAreMooreOutputs
  intro s t h
  rw [step_eq_after s t h]
  exact ⟨rfl, busyFlag_eq_decide s.dec, rfl, rfl, rfl, rfl, rfl⟩

/-- Settles O19: the decoder of the state after reset is RESET_STATE. -/
theorem resetStateReadsZero : Obligations.ResetStateReadsZero := by
  unfold Obligations.ResetStateReadsZero
  exact ⟨rfl, regRead_resetState, outputs_resetState, params_legal⟩

/-! ## What a step does not read -/

/-- The decoder a step ends with is the one the dispatch answers. -/
theorem nextDec_endStep (s u : State) :
    nextDec (endStep s u) = (dispatch s.params s.dec s.inputs u.dec).toOption := by
  obtain ⟨d, hd, hend⟩ | ⟨r, hr, hend⟩ := endStep_cases s u
  · rw [hend, hd]; rfl
  · rw [hend, hr]; rfl

/-- A presented transaction that writes nothing leaves the decoder that the dispatch makes of the one before it. -/
theorem nextDec_of_writesNothing (i : Instr) (s : State) (hwf : i.wf = true) (hw : writesNothing i = true)
    (hlegal : s.params.legal = true) :
    nextDec (step (s.withTransaction (encode i)))
      = (dispatch s.params s.dec (s.withTransaction (encode i)).inputs s.dec).toOption := by
  have hdecode : decode (encode i) = i := decodeOfEncodeIsTheInstruction i hwf
  have hexec := exec_of_writesNothing i (s.withTransaction (encode i)) hw
  rw [step_withTransaction s _ (encode i) hlegal (by rw [hdecode, hexec]), nextDec_endStep]
  rfl

/-- Settles O22: transactions that write nothing leave the decoder to the dispatch, which reads the line and the clock,
and no transaction. -/
theorem readsHaveNoSideEffects : Obligations.ReadsHaveNoSideEffects := by
  unfold Obligations.ReadsHaveNoSideEffects
  intro i j s hi hj hwi hwj
  by_cases hlegal : s.params.legal = true
  · rw [nextDec_of_writesNothing i s hi hwi hlegal, nextDec_of_writesNothing j s hj hwj hlegal,
      dispatch_inputs _ _ _ (s.withTransaction (encode i)).inputs (s.withTransaction (encode j)).inputs rfl rfl]
  · rw [step_of_illegal (s.withTransaction (encode i)) hlegal, step_of_illegal (s.withTransaction (encode j)) hlegal]

/-- The decoder a step ends with, for every step: RESET_STATE, or what the dispatch makes of the decoder its
transaction leaves, or none where the step stops. -/
theorem nextDec_step (s : State) :
    nextDec (step s) =
      if s.params.legal = true then
        if s.inputs.rst = true then some Decoder.resetState
        else (nextDec (exec s.fetch s)).bind fun d => (dispatch s.params s.dec s.inputs d).toOption
      else none := by
  split
  next hlegal =>
    split
    next hrst => rw [step_of_reset s hlegal hrst]; rfl
    next hrst =>
      obtain ⟨u, hu, hstep⟩ := step_eq_endStep s hlegal (by simpa using hrst)
      rw [hstep, nextDec_endStep, hu]
      rfl
  next hillegal => rw [step_of_illegal s hillegal]; rfl

/-- Of the inputs a host transaction reads only the clock, and that only as an accepted RESET_CLOCK_REF. -/
theorem exec_reads_clock (i : Instr) (s s' : State) (hdec : s'.dec = s.dec)
    (hnow : s'.inputs.nowMs = s.inputs.nowMs ∨ ¬ (s.dec.st = 0#4 ∧ ∃ g, i = .resetClockRef g)) :
    nextDec (exec i s') = nextDec (exec i s) := by
  cases i with
  | resetClockRef g =>
    change some (acceptIfReady (acceptClockRef s'.inputs.nowMs) s'.dec)
      = some (acceptIfReady (acceptClockRef s.inputs.nowMs) s.dec)
    rw [hdec]
    rcases hnow with hnow | hnot
    · rw [hnow]
    · have hbusy : s.dec.st ≠ 0#4 := fun hr => hnot ⟨hr, g, rfl⟩
      rw [acceptIfReady_of_busy _ _ hbusy, acceptIfReady_of_busy _ _ hbusy]
  | attemptRead g | cmdReserved g => simp only [exec, execAttemptRead, execCmdReserved, nextDec, withDec_dec, hdec]
  | _ => exact congrArg some hdec

/-- Dispatch reads of the inputs what the rule of its state reads. -/
theorem dispatch_congr (p : Params) (s : Decoder) (i j : Inputs)
    (hrule : ∀ f d, s.st = fsmCode f → runFsm f p s i d = runFsm f p s j d) (d : Decoder) :
    dispatch p s i d = dispatch p s j d := by
  unfold dispatch
  split
  · rfl
  · next f hf => rw [hrule f d (fsmOf_eq_some _ _ hf)]

/-- A state that is no wait does not read the line (10_state.md R38). -/
theorem runFsm_of_unsampled (f : Fsm) (hf : samplesLine (fsmCode f) = false) (p : Params) (s d : Decoder)
    (i j : Inputs) (hnow : i.nowMs = j.nowMs) : runFsm f p s i d = runFsm f p s j d := by
  cases f with
  | rateCheck => simp only [runFsm, rateCheck, hnow]
  | ready | startPulse | assemble | checksumVerify => rfl
  | idleWait | ackLowWait | ackHighWait | bitSyncWait | bitHighWait => exact absurd hf (by decide)

/-- No state but RATE_CHECK reads the clock (10_state.md R38). -/
theorem runFsm_of_not_rateCheck (f : Fsm) (hf : f ≠ .rateCheck) (p : Params) (s d : Decoder) (i j : Inputs)
    (hline : i.line = j.line) : runFsm f p s i d = runFsm f p s j d :=
  calc runFsm f p s i d
      = runFsm f p s { i with nowMs := j.nowMs } d := by
        cases f with
        | rateCheck => exact absurd rfl hf
        | _ => rfl
    _ = runFsm f p s j d := runFsm_inputs f p s d _ _ hline rfl

/-- Two machines with the same decoder, whose coming steps differ in inputs that neither the transaction nor the FSM
state's rule reads, end the step with the same decoder. -/
theorem nextDec_step_congr (s s' : State) (hparams : s'.params = s.params) (hdec : s'.dec = s.dec)
    (htw : s'.inputs.tw = s.inputs.tw) (hrst : s'.inputs.rst = s.inputs.rst)
    (hnow : s'.inputs.nowMs = s.inputs.nowMs ∨ ¬ (s.dec.st = 0#4 ∧ rebasesClock s = true))
    (hrule : ∀ f d, s.dec.st = fsmCode f →
      runFsm f s.params s.dec s'.inputs d = runFsm f s.params s.dec s.inputs d) :
    nextDec (step s') = nextDec (step s) := by
  have hfetch : s'.fetch = s.fetch := congrArg decode htw
  have hhost : nextDec (exec s.fetch s') = nextDec (exec s.fetch s) :=
    exec_reads_clock s.fetch s s' hdec (by rwa [rebasesClock_iff] at hnow)
  have hdispatch := dispatch_congr s.params s.dec s'.inputs s.inputs hrule
  rw [nextDec_step, nextDec_step s, hparams, hdec, hrst, hfetch, hhost]
  simp only [hdispatch]

/-- Settles O45: the replaced input is one that the state's rule does not read, nor its transaction. -/
theorem lineAndClockAreReadOnlyWhereStated : Obligations.LineAndClockAreReadOnlyWhereStated := by
  unfold Obligations.LineAndClockAreReadOnlyWhereStated
  intro s now line
  refine ⟨fun hsamples => ?_, fun hnotRate hnotRebase => ?_⟩
  · exact nextDec_step_congr s _ rfl rfl rfl rfl (.inl rfl) fun f d hst =>
      runFsm_of_unsampled f (hst ▸ hsamples) _ _ _ _ _ rfl
  · exact nextDec_step_congr s _ rfl rfl rfl rfl (.inr hnotRebase) fun f d hst =>
      runFsm_of_not_rateCheck f (by rintro rfl; exact hnotRate hst) _ _ _ _ _ rfl

end Sys2Proof.Machine

/-! The statements of 43_framing_checksum.md and 30_encoding.md section 5 about whole frames: a reading survives the
wire, a flipped bit is detected, and the two framing states compute the decode of a frame. -/

namespace Sys2Proof.Machine

/-! ## The wire encoding of a reading (30_encoding.md R88, R93) -/

/-- A frame, with its width written as the sum of its fields' widths. -/
theorem packFrame_eq_fields (b0 : Bool) (rh rt : Half) (ck : Byte) :
    packFrame b0 rh rt ck
      = BitVec.cast (show 1 + 16 + 16 + 8 = 41 from rfl) (BitVec.ofBool b0 ++ rh ++ rt ++ ck) := rfl

/-- The fields of a frame are found where ASSEMBLE looks for them (43_framing_checksum.md R180). -/
theorem packFrame_fields (b0 : Bool) (rh rt : Half) (ck : Byte) :
    frameHum (packFrame b0 rh rt ck) = rh ∧ frameTemp (packFrame b0 rh rt ck) = rt
      ∧ frameCk (packFrame b0 rh rt ck) = ck := by
  rw [packFrame_eq_fields, frameHum, frameTemp, frameCk]
  refine ⟨?_, ?_, ?_⟩ <;>
    simp (disch := decide) only [BitVec.extractLsb'_cast, BitVec.extractLsb'_append_eq_of_le,
      BitVec.extractLsb'_append_eq_of_add_le, BitVec.extractLsb'_eq_self, Nat.reduceSub]

/-- A field below 0x8000 is its own magnitude (43_framing_checksum.md R183). -/
theorem humOf_of_lt (f : Half) (h : f.toNat < 0x8000) : humOf f = f :=
  BitVec.eq_of_toNat_eq (by rw [humOf_toNat, Nat.mod_eq_of_lt h])

/-- A humidity in range survives its encoding. -/
theorem humOf_wireHum (h : Nat) (hle : h ≤ 32767) : humOf (wireHum h) = BitVec.ofNat 16 h :=
  humOf_of_lt _ (by rw [wireHum, BitVec.toNat_ofNat]; omega)

/-- A magnitude of 15 bits as a number. -/
theorem ofInt_toNat_of_magnitude (m : Int) (hnonneg : 0 ≤ m) (hle : m ≤ 32767) :
    (BitVec.ofInt 16 m).toNat = m.toNat := by
  rw [BitVec.toNat_ofInt]
  omega

/-- Setting the sign flag of a magnitude adds 0x8000. -/
theorem signFlag_or_toNat (f : Half) (h : f.toNat < 0x8000) : (0x8000#16 ||| f).toNat = 0x8000 + f.toNat := by
  have hor := Nat.two_pow_add_eq_or_of_lt (i := 15) h 1
  rw [BitVec.toNat_or]
  exact hor.symm

/-- A temperature in range survives its encoding: its sign and its magnitude are put together again. -/
theorem tempOf_wireTemp (t : Int) (hmin : -32767 ≤ t) (hmax : t ≤ 32767) :
    tempOf (wireTemp t) = BitVec.ofInt 16 t := by
  rw [tempOf_eq, wireTemp]
  by_cases hsign : 0 ≤ t
  · have hnat := ofInt_toNat_of_magnitude t hsign hmax
    rw [if_pos hsign, if_neg (by omega), humOf_of_lt _ (by omega)]
  · have hnat := ofInt_toNat_of_magnitude (-t) (by omega) (by omega)
    have hflag := signFlag_or_toNat (BitVec.ofInt 16 (-t)) (by omega)
    have hmagnitude : humOf (0x8000#16 ||| BitVec.ofInt 16 (-t)) = BitVec.ofInt 16 (-t) :=
      BitVec.eq_of_toNat_eq (by rw [humOf_toNat]; omega)
    rw [if_neg hsign, if_pos (by omega), hmagnitude, BitVec.ofInt_neg, BitVec.neg_neg]

/-- A frame whose checksum is right decodes to its reading (43_framing_checksum.md R186). -/
theorem decodeFrame_packFrame (b0 : Bool) (rh rt : Half) :
    decodeFrame (packFrame b0 rh rt (calcCk rh rt)) = some (humOf rh, tempOf rt) := by
  obtain ⟨hhum, htemp, hck⟩ := packFrame_fields b0 rh rt (calcCk rh rt)
  rw [decodeFrame, hhum, htemp, hck, if_neg (not_not_intro rfl)]

/-- Settles O36: the frame of a reading has the right checksum, and both fields survive their encoding. -/
theorem readingSurvivesTheWire : Obligations.ReadingSurvivesTheWire := by
  unfold Obligations.ReadingSurvivesTheWire
  intro b0 h t hh hmin hmax
  rw [encodeFrame, decodeFrame_packFrame, humOf_wireHum h hh, tempOf_wireTemp t hmin hmax]

/-! ## Flipped bits (43_framing_checksum.md R182) -/

/-- Wire byte `i` of a frame, counted from the checksum, which is byte 0. -/
def wireByte (f : Frame) (i : Nat) : Byte := f.extractLsb' (8 * i) 8

/-- A byte of a 16-bit slice is a byte of what was sliced. -/
theorem byte_of_slice (f : Frame) (start offset : Nat) (h : offset + 8 ≤ 16) :
    (f.extractLsb' start 16).extractLsb' offset 8 = f.extractLsb' (start + offset) 8 := by
  apply BitVec.eq_of_getLsbD_eq
  intro i hi
  have hin : offset + i < 16 := by omega
  simp only [BitVec.getLsbD_extractLsb', hi, hin, decide_true, Bool.true_and, Nat.add_assoc]

/-- The bytes of the raw fields are wire bytes (30_encoding.md R88). -/
theorem frame_bytes (f : Frame) :
    highByte (frameHum f) = wireByte f 4 ∧ lowByte (frameHum f) = wireByte f 3
      ∧ highByte (frameTemp f) = wireByte f 2 ∧ lowByte (frameTemp f) = wireByte f 1 :=
  ⟨byte_of_slice f 24 8 (by decide), byte_of_slice f 24 0 (by decide), byte_of_slice f 8 8 (by decide),
    byte_of_slice f 8 0 (by decide)⟩

/-- The checksum of a frame is the sum of its four data bytes (43_framing_checksum.md R181). -/
theorem calcCk_of_frame (f : Frame) :
    calcCk (frameHum f) (frameTemp f) = wireByte f 4 + wireByte f 3 + wireByte f 2 + wireByte f 1 := by
  obtain ⟨h4, h3, h2, h1⟩ := frame_bytes f
  rw [calcCk, h4, h3, h2, h1]

/-- A frame decodes to nothing exactly where its four data bytes do not sum to its checksum. -/
theorem decodeFrame_eq_none_iff (f : Frame) :
    decodeFrame f = none ↔ wireByte f 4 + wireByte f 3 + wireByte f 2 + wireByte f 1 ≠ wireByte f 0 := by
  rw [decodeFrame, calcCk_of_frame, show frameCk f = wireByte f 0 from rfl]
  split
  next hne => exact iff_of_true rfl hne
  next heq => exact iff_of_false nofun heq

/-- Flipping the bits of a mask flips those of its bytes. -/
theorem wireByte_xor (f m : Frame) (i : Nat) : wireByte (f ^^^ m) i = wireByte f i ^^^ wireByte m i :=
  BitVec.extractLsb'_xor

/-- Bit `r` of wire byte `q` lies in that byte and in no other. -/
theorem wireByte_single : ∀ (q i : Fin 5) (r : Fin 8), wireByte (1#41 <<< (8 * q.val + r.val)) i = 0#8 ↔ i ≠ q := by
  decide

/-- One changed byte among the four summands and the sum leaves them unequal. -/
theorem sum_ne_of_one_changed (b b' : Fin 5 → Byte) (q : Fin 5) (hq : b' q ≠ b q) (hothers : ∀ i, i ≠ q → b' i = b i)
    (hsum : b 4 + b 3 + b 2 + b 1 = b 0) : b' 4 + b' 3 + b' 2 + b' 1 ≠ b' 0 := by
  intro hsum'
  have hcancel : b' 4 - b 4 + (b' 3 - b 3) + (b' 2 - b 2) + (b' 1 - b 1) = b' 0 - b 0 := by
    rw [← hsum, ← hsum']; ring
  have hzero : ∀ i, i ≠ q → b' i - b i = 0 := fun i hi => sub_eq_zero.2 (hothers i hi)
  have hchange : b' q - b q ≠ 0 := sub_ne_zero.2 hq
  fin_cases q <;> exact hchange (by simpa [hzero, eq_comm] using hcancel)

/-- Slot 0 is in no field (30_encoding.md R88). -/
theorem frame_fields_slot_zero (f : Frame) :
    frameHum (f ^^^ 1#41 <<< 40) = frameHum f ∧ frameTemp (f ^^^ 1#41 <<< 40) = frameTemp f
      ∧ frameCk (f ^^^ 1#41 <<< 40) = frameCk f := by
  refine ⟨?_, ?_, ?_⟩ <;> exact BitVec.extractLsb'_xor.trans BitVec.xor_zero

/-- Settles O37: the flipped bit changes one of the five wire bytes, so the sum of the data bytes and the checksum no
longer agree; slot 0 is in none of the fields. -/
theorem singleBitErrorsAreDetected : Obligations.SingleBitErrorsAreDetected := by
  unfold Obligations.SingleBitErrorsAreDetected
  intro f j _
  refine ⟨fun hj hgood => ?_, ?_⟩
  · have hsingle := fun i => wireByte_single ⟨j / 8, by omega⟩ i ⟨j % 8, by omega⟩
    simp only [Nat.div_add_mod] at hsingle
    rw [Ne, decodeFrame_eq_none_iff, not_not] at hgood
    rw [decodeFrame_eq_none_iff]
    refine sum_ne_of_one_changed (fun i => wireByte f i) (fun i => wireByte (f ^^^ 1#41 <<< j) i) ⟨j / 8, by omega⟩
      ?_ (fun i hi => ?_) hgood
    · rw [wireByte_xor, Ne, xor_left_eq_self_iff]
      exact fun hzero => (hsingle _).1 hzero rfl
    · rw [wireByte_xor, xor_left_eq_self_iff]
      exact (hsingle i).2 hi
  · rintro rfl
    obtain ⟨hhum, htemp, hck⟩ := frame_fields_slot_zero f
    rw [decodeFrame, decodeFrame, hhum, htemp, hck]

/-! ## The two framing states together (43_framing_checksum.md R186) -/

/-- The decoder after ASSEMBLE and CHECKSUM_VERIFY, from a complete frame. -/
def Decoder.decoded (d : Decoder) : Decoder := checksumVerify (assemble d d) (assemble d d)

/-- The two states accept a frame that decodes, with its reading. -/
theorem Decoder.decoded_of_some (d : Decoder) (h t : Half) (hdecode : decodeFrame d.frame = some (h, t)) :
    d.decoded = finish .ok { assemble d d with hum := h, temp := t, valid := true } := by
  unfold decodeFrame at hdecode
  split at hdecode
  next => cases hdecode
  next hck =>
    cases hdecode
    exact if_neg hck

/-- The two states reject a frame that does not decode. -/
theorem Decoder.decoded_of_none (d : Decoder) (hdecode : decodeFrame d.frame = none) :
    d.decoded = finish .checksum (assemble d d) := by
  unfold decodeFrame at hdecode
  split at hdecode
  next hck => exact if_pos hck
  next => cases hdecode

/-- A run that has reached ASSEMBLE runs the two framing states. -/
theorem State.Reaches.decoded {s : State} {k : Nat} {d : Decoder} (h : s.Reaches k d) (hst : d.st = fsmCode .assemble)
    (hrst : NoReset s (k + 2)) : s.Reaches (k + 2) d.decoded := by
  have hassembled := h.next .assemble hst (by decide) (hrst k (by omega))
  exact hassembled.next .checksumVerify rfl (by decide) (hrst (k + 1) (by omega))

/-- A step that can be taken has reached its own state. -/
theorem State.Runs.reaches_zero {s : State} {code : BitVec 4} (hR : s.Runs code) : s.Reaches 0 s.dec :=
  ⟨hR.legal, hR.resultExists, s, s.dec.cmdErr, rfl, rfl⟩

/-- Settles O38: whether the frame decodes is what CHECKSUM_VERIFY decides on the fields ASSEMBLE wrote. -/
theorem completeFrameEndsAsDecodeFrame : Obligations.CompleteFrameEndsAsDecodeFrame := by
  unfold Obligations.CompleteFrameEndsAsDecodeFrame
  intro s hR hrst
  have hnoReset : NoReset s 2 := fun j hj => by
    obtain rfl | rfl : j = 0 ∨ j = 1 := by omega
    · exact hR.noReset
    · exact hrst
  obtain ⟨t, e, ht, hd⟩ := (hR.reaches_zero.decoded hR.inState hnoReset).run
  refine ⟨t, ht, ?_⟩
  rw [hd]
  cases hdecode : decodeFrame s.dec.frame with
  | none =>
    rw [s.dec.decoded_of_none hdecode]
    exact ⟨rfl, rfl, nofun, fun _ => ⟨rfl, rfl, rfl, rfl⟩⟩
  | some reading =>
    rw [s.dec.decoded_of_some _ _ hdecode]
    refine ⟨rfl, rfl, ?_, nofun⟩
    rintro h temp ⟨⟩
    exact ⟨rfl, rfl, rfl, rfl⟩

end Sys2Proof.Machine

/-! The statements of 10_state.md sections 2 to 5 about who writes what: the flags, the slot index and the diagnostic
registers. -/

namespace Sys2Proof.Machine

/-! ## A step by its FSM state -/

/-- A step without reset that answers a next state runs the rule of its state. -/
theorem runs_of_step (s t : State) (h : step s = .next t) (hrst : s.inputs.rst = false) {code : BitVec 4}
    (hst : s.dec.st = code) : s.Runs code := by
  obtain ⟨f, hR, -⟩ := step_shape s t h hrst
  rwa [← hst, hR.inState]

/-- A step in READY leaves the decoder its transaction leaves. -/
theorem step_ready_dec (s t : State) (h : step s = .next t) (hrst : s.inputs.rst = false) (hready : s.dec.st = 0#4) :
    ∃ u, exec s.fetch s = .next u ∧ t.dec = u.dec := by
  obtain ⟨u, hu, hstep⟩ := step_of_ready s (runs_of_step s t h hrst hready)
  rw [h] at hstep
  cases hstep
  exact ⟨u, hu, rfl⟩

/-- A busy step leaves what the rule of its state leaves, but for `cmd_err`. -/
theorem step_busy_dec (s t : State) (h : step s = .next t) (hrst : s.inputs.rst = false) (hbusy : s.dec.st ≠ 0#4) :
    ∃ f, s.dec.st = fsmCode f
      ∧ t.dec = { runFsm f s.params s.dec s.inputs s.dec with cmdErr := s.errAfter } := by
  obtain ⟨f, hR, ⟨rfl, -⟩ | ⟨-, rfl⟩⟩ := step_shape s t h hrst
  · exact absurd hR.inState hbusy
  · exact ⟨f, hR.inState, rfl⟩

/-! ## The end of an attempt (10_state.md R28) -/

/-- What the end of an attempt writes besides the FSM state: `done` and `result` (10_state.md R28). -/
def Decoder.outcome (d : Decoder) : Bool × BitVec 4 := (d.done, d.result)

/-- A bounded wait ends the attempt or writes no outcome, where its success action writes none. -/
theorem Waits.ends_or_keeps_outcome {p : Params} {f : Fsm} {target : Bool} {ceil : Nat} {fail : ResultCode}
    {act : Decoder → Nat → Decoder → Decoder} (hW : Waits p f target ceil fail act) (d : Decoder) (inp : Inputs)
    (hact : ∀ c e, (act d c e).outcome = e.outcome) :
    (runFsm f p d inp d).st = 0#4 ∨ (runFsm f p d inp d).outcome = d.outcome := by
  rw [hW.rule]
  rcases wait_cases target ceil fail (act d) d inp d with ⟨-, h⟩ | ⟨-, -, h⟩ | ⟨-, -, h⟩ <;> rw [h]
  · exact .inr (hact _ _)
  · exact .inl rfl
  · exact .inr rfl

/-- The capture of a bit writes no outcome. -/
theorem captureBit_outcome (p : Params) (s : Decoder) (c : Nat) (d : Decoder) :
    (captureBit p s c d).outcome = d.outcome := by
  unfold captureBit
  split <;> rfl

/-- A rule that does not end the attempt writes no outcome. -/
theorem runFsm_ends_or_keeps_outcome (f : Fsm) (p : Params) (d : Decoder) (inp : Inputs) :
    (runFsm f p d inp d).st = 0#4 ∨ (runFsm f p d inp d).outcome = d.outcome := by
  cases f with
  | ready | assemble => exact .inr rfl
  | rateCheck =>
    rcases rateCheck_cases d inp d with ⟨-, h⟩ | ⟨-, h⟩ <;> rw [runFsm, h]
    · exact .inl rfl
    · exact .inr rfl
  | startPulse =>
    rw [runFsm, startPulse]
    split <;> exact .inr rfl
  | idleWait => exact (waits_idleWait p).ends_or_keeps_outcome d inp fun _ _ => rfl
  | ackLowWait => exact (waits_ackLowWait p).ends_or_keeps_outcome d inp fun _ _ => rfl
  | ackHighWait => exact (waits_ackHighWait p).ends_or_keeps_outcome d inp fun _ _ => rfl
  | bitSyncWait => exact (waits_bitSyncWait p).ends_or_keeps_outcome d inp fun _ _ => rfl
  | bitHighWait => exact (waits_bitHighWait p).ends_or_keeps_outcome d inp (captureBit_outcome p d)
  | checksumVerify =>
    rcases checksumVerify_cases d d with ⟨-, h⟩ | ⟨-, h⟩ <;> rw [runFsm, h] <;> exact .inl rfl

/-- A busy step that does not end the attempt writes no outcome. -/
theorem step_keeps_outcome (s t : State) (h : step s = .next t) (hrst : s.inputs.rst = false)
    (hgoes : t.dec.st ≠ 0#4) (hbusy : s.dec.st ≠ 0#4) : t.dec.outcome = s.dec.outcome := by
  obtain ⟨f, -, hd⟩ := step_busy_dec s t h hrst hbusy
  rw [hd] at hgoes ⊢
  exact (runFsm_ends_or_keeps_outcome f s.params s.dec s.inputs).resolve_left hgoes

/-- A transaction that writes nothing is none of the commands that do. -/
theorem no_command_of_writesNothing (s : State) (h : writesNothing s.fetch = true) :
    startsAttempt s = false ∧ rebasesClock s = false ∧ rejectedWhileBusy s.fetch = false := by
  unfold startsAttempt rebasesClock
  revert h
  cases s.fetch <;> simp [writesNothing, rejectedWhileBusy]

/-- `done` is cleared by an accepted attempt and set by its end (10_state.md R28). -/
theorem step_done (s t : State) (h : step s = .next t) (hrst : s.inputs.rst = false) :
    t.dec.done =
      if s.dec.st = 0#4 ∧ startsAttempt s = true then false
      else if s.dec.st ≠ 0#4 ∧ t.dec.st = 0#4 then true else s.dec.done := by
  by_cases hready : s.dec.st = 0#4
  · obtain ⟨u, hu, ht⟩ := step_ready_dec s t h hrst hready
    rw [ht]
    rcases exec_ready_dec s u hready hu with ⟨hw, hd⟩ | ⟨⟨g, hi⟩, hd⟩ | ⟨⟨g, hi⟩, hd⟩ | ⟨⟨g, hi⟩, hd⟩ <;> rw [hd]
    · obtain ⟨hstarts, -, -⟩ := no_command_of_writesNothing s hw
      simp [hready, hstarts]
    all_goals simp [hready, startsAttempt, hi]
  · rw [if_neg fun hstart => hready hstart.1]
    by_cases hend : t.dec.st = 0#4
    · obtain ⟨hframe, -⟩ := finishWritesFourFields s t h hrst hready hend
      rw [if_pos ⟨hready, hend⟩, hframe]
    · rw [if_neg fun hends => hend hends.2]
      exact congrArg Prod.fst (step_keeps_outcome s t h hrst hend hready)

/-- `cmd_err` is cleared by an accepted command and set by a rejected one (10_state.md R28). -/
theorem step_cmdErr (s t : State) (h : step s = .next t) (hrst : s.inputs.rst = false) :
    t.dec.cmdErr =
      if s.dec.st = 0#4 ∧ (startsAttempt s = true ∨ rebasesClock s = true) then false
      else if rejectedWhileBusy s.fetch = true then true else s.dec.cmdErr := by
  by_cases hready : s.dec.st = 0#4
  · obtain ⟨u, hu, ht⟩ := step_ready_dec s t h hrst hready
    rw [ht]
    rcases exec_ready_dec s u hready hu with ⟨hw, hd⟩ | ⟨⟨g, hi⟩, hd⟩ | ⟨⟨g, hi⟩, hd⟩ | ⟨⟨g, hi⟩, hd⟩ <;> rw [hd]
    · obtain ⟨hstarts, hrebases, hrejected⟩ := no_command_of_writesNothing s hw
      simp [hstarts, hrebases, hrejected]
    all_goals simp [hready, startsAttempt, rebasesClock, rejectedWhileBusy, hi]
  · obtain ⟨f, -, ht⟩ := step_busy_dec s t h hrst hready
    rw [if_neg fun haccept => hready haccept.1, ht]
    change (s.dec.cmdErr || rejectedWhileBusy s.fetch) = _
    cases rejectedWhileBusy s.fetch <;> simp

/-- The result of an attempt that ends in this FSM state (60_exceptions.md R225). -/
def Decoder.endCode (d : Decoder) : BitVec 4 :=
  if d.st = 1#4 then 2#4 else if d.st = 2#4 then 3#4 else if d.st = 4#4 then 4#4
  else if d.st = 5#4 then 5#4 else if d.st = 6#4 then 6#4 else if d.st = 7#4 then 7#4
  else if d.calcCk = d.rawCk then 1#4 else 8#4

/-- CHECKSUM_VERIFY ends with OK or CHECKSUM, by the checksums (43_framing_checksum.md R182). -/
theorem step_result_of_checksumVerify (s t : State) (h : step s = .next t) (hR : s.Runs 9#4) :
    t.dec.result = if s.dec.calcCk = s.dec.rawCk then 1#4 else 8#4 := by
  obtain ⟨haccept, hreject⟩ := checksumVerifyAcceptsOrRejects s hR
  by_cases hck : s.dec.calcCk = s.dec.rawCk
  · rw [haccept hck] at h
    cases h
    rw [if_pos hck, after_dec]
  · rw [hreject hck] at h
    cases h
    rw [if_neg hck, after_dec]

/-- The end of an attempt writes the code of its state. -/
theorem step_result_of_end (s t : State) (h : step s = .next t) (hrst : s.inputs.rst = false)
    (hbusy : s.dec.st ≠ 0#4) (hend : t.dec.st = 0#4) : t.dec.result = s.dec.endCode := by
  unfold Decoder.endCode
  by_cases hcheck : s.dec.st = 9#4
  · rw [step_result_of_checksumVerify s t h (runs_of_step s t h hrst hcheck)]
    simp [hcheck]
  · obtain ⟨hcodes, -⟩ := eachStateRaisesItsOwnCode s t h hrst hbusy
    have hcode := hcodes hend
    simp only [List.mem_cons, Prod.mk.injEq, List.not_mem_nil, or_false, hcheck, false_and] at hcode
    rcases hcode with ⟨hst, hres⟩ | ⟨hst, hres⟩ | ⟨hst, hres⟩ | ⟨hst, hres⟩ | ⟨hst, hres⟩ | ⟨hst, hres⟩ <;>
      simp [hst, hres]

/-- `result` is written by the end of an attempt (10_state.md R28). -/
theorem step_result (s t : State) (h : step s = .next t) (hrst : s.inputs.rst = false) :
    t.dec.result = if s.dec.st ≠ 0#4 ∧ t.dec.st = 0#4 then s.dec.endCode else s.dec.result := by
  by_cases hready : s.dec.st = 0#4
  · rw [if_neg fun hends => hends.1 hready]
    obtain ⟨u, hu, ht⟩ := step_ready_dec s t h hrst hready
    rw [ht, exec_ready_frame _ s u hu hready]
  · by_cases hend : t.dec.st = 0#4
    · rw [if_pos ⟨hready, hend⟩]
      exact step_result_of_end s t h hrst hready hend
    · rw [if_neg fun hends => hend hends.2]
      exact congrArg Prod.snd (step_keeps_outcome s t h hrst hend hready)

/-- `valid` is set by an accepting CHECKSUM_VERIFY (10_state.md R28). -/
theorem step_valid (s t : State) (h : step s = .next t) (hrst : s.inputs.rst = false) :
    t.dec.valid = (s.dec.valid || decide (s.dec.st = 9#4 ∧ s.dec.calcCk = s.dec.rawCk)) := by
  by_cases haccept : s.dec.Accepts
  · obtain ⟨hst, hck⟩ := haccept
    rw [(checksumVerifyAcceptsOrRejects s (runs_of_step s t h hrst hst)).1 hck] at h
    cases h
    simp [hst, hck]
  · obtain ⟨-, -, hvalid⟩ := (Decoder.reading_eq_iff _ _).1 (step_keeps_reading s t h hrst haccept)
    rw [hvalid, show decide (s.dec.st = 9#4 ∧ s.dec.calcCk = s.dec.rawCk) = false from decide_eq_false haccept,
      Bool.or_false]

/-- `attempted` is set where a timestamp is recorded (10_state.md R26). -/
theorem step_attempted (s t : State) (h : step s = .next t) (hrst : s.inputs.rst = false) :
    t.dec.attempted =
      (s.dec.attempted || decide (s.dec.st = 1#4 ∧ ¬ Limited s.dec s.inputs.nowMs)
        || decide (s.dec.st = 0#4 ∧ rebasesClock s = true)) := by
  have hwriters : t.dec.attempted = if _ then true else s.dec.attempted :=
    (congrArg Prod.snd (timestampHasTwoWriters s t h hrst)).trans (apply_ite Prod.snd _ _ _)
  rw [hwriters, Bool.or_assoc, ← Bool.decide_or]
  split
  next hrecords => rw [decide_eq_true hrecords, Bool.or_true]
  next hkeeps => rw [decide_eq_false hkeeps, Bool.or_false]

/-- Settles O40: clause by clause, each flag by its writers. -/
theorem flagsAreSetAndClearedAsListed : Obligations.FlagsAreSetAndClearedAsListed := by
  unfold Obligations.FlagsAreSetAndClearedAsListed
  intro s t h hrst
  exact ⟨step_done s t h hrst, step_cmdErr s t h hrst, step_result s t h hrst, step_valid s t h hrst,
    step_attempted s t h hrst⟩

/-! ## The slot index (10_state.md R24) -/

/-- The success of ACK_HIGH_WAIT clears the index; nothing else of it writes one (41_handshake.md R145). -/
theorem ackHighWait_bitIdx (p : Params) (d : Decoder) (inp : Inputs) :
    (runFsm .ackHighWait p d inp d).bitIdx = if inp.line = true then 0#6 else d.bitIdx := by
  rw [(waits_ackHighWait p).rule]
  rcases wait_cases true p.ackHighCeil .ackTooLong _ d inp d with ⟨hline, h⟩ | ⟨hline, -, h⟩ | ⟨hline, -, h⟩ <;> rw [h]
  · rw [if_pos hline]; rfl
  · rw [if_neg hline]; rfl
  · rw [if_neg hline]

/-- The success of BIT_HIGH_WAIT moves the index on before the last slot; nothing else of it writes one
(42_bit_capture.md R162). -/
theorem bitHighWait_bitIdx (p : Params) (d : Decoder) (inp : Inputs) :
    (runFsm .bitHighWait p d inp d).bitIdx =
      if inp.line = true ∧ d.bitIdx ≠ 40#6 then d.bitIdx + 1#6 else d.bitIdx := by
  rw [(waits_bitHighWait p).rule]
  rcases wait_cases true p.dataCeil .dataTimeout _ d inp d with ⟨hline, h⟩ | ⟨hline, -, h⟩ | ⟨hline, -, h⟩ <;> rw [h]
  · by_cases hlast : d.bitIdx = 40#6
    · rw [captureBit_of_last _ _ _ _ hlast, if_neg fun hmoves => hmoves.2 hlast]; rfl
    · rw [captureBit_of_not_last _ _ _ _ hlast, if_pos ⟨hline, hlast⟩]; rfl
  · rw [if_neg fun hmoves => hline hmoves.1]; rfl
  · rw [if_neg fun hmoves => hline hmoves.1]

/-- A bounded wait leaves the index where its success action does. -/
theorem wait_bitIdx (target : Bool) (ceil : Nat) (fail : ResultCode) (k : Nat → Decoder → Decoder)
    (s : Decoder) (inp : Inputs) (d : Decoder) (hk : ∀ c e, (k c e).bitIdx = e.bitIdx) :
    (wait target ceil fail k s inp d).bitIdx = d.bitIdx :=
  wait_keeps Decoder.bitIdx target ceil fail k s inp d hk rfl fun _ => rfl

/-- No rule but those of ACK_HIGH_WAIT and BIT_HIGH_WAIT writes the index. -/
theorem runFsm_bitIdx (f : Fsm) (hf : f ≠ .ackHighWait ∧ f ≠ .bitHighWait) (p : Params) (s d : Decoder)
    (inp : Inputs) : (runFsm f p s inp d).bitIdx = d.bitIdx := by
  cases f with
  | ready | assemble => rfl
  | rateCheck => rcases rateCheck_cases s inp d with ⟨-, h⟩ | ⟨-, h⟩ <;> simp only [runFsm, h, finish_bitIdx]
  | startPulse => rw [runFsm, startPulse]; split <;> rfl
  | idleWait | ackLowWait | bitSyncWait => exact wait_bitIdx _ _ _ _ _ _ _ fun _ _ => rfl
  | ackHighWait => exact absurd rfl hf.1
  | bitHighWait => exact absurd rfl hf.2
  | checksumVerify => rcases checksumVerify_cases s d with ⟨-, h⟩ | ⟨-, h⟩ <;> rw [runFsm, h] <;> rfl

/-- Code 5 is ACK_HIGH_WAIT's alone, and code 7 BIT_HIGH_WAIT's (10_state.md R21). -/
theorem fsmCode_wait_high_iff (f : Fsm) :
    (fsmCode f = 5#4 ↔ f = .ackHighWait) ∧ (fsmCode f = 7#4 ↔ f = .bitHighWait) := by
  cases f <;> decide

/-- The index a busy step leaves, by its state. -/
theorem runFsm_bitIdx_cases (f : Fsm) (p : Params) (d : Decoder) (inp : Inputs) (hst : d.st = fsmCode f) :
    (runFsm f p d inp d).bitIdx =
      if d.st = 5#4 ∧ inp.line = true then 0#6
      else if d.st = 7#4 ∧ inp.line = true ∧ d.bitIdx ≠ 40#6 then d.bitIdx + 1#6 else d.bitIdx := by
  obtain ⟨hfive, hseven⟩ := fsmCode_wait_high_iff f
  simp only [hst, hfive, hseven]
  by_cases hack : f = .ackHighWait
  · subst hack
    simp [ackHighWait_bitIdx]
  · by_cases hbit : f = .bitHighWait
    · subst hbit
      simp [bitHighWait_bitIdx]
    · rw [runFsm_bitIdx f ⟨hack, hbit⟩]
      simp [hack, hbit]

/-- The index a step leaves. -/
theorem step_bitIdx (s t : State) (h : step s = .next t) (hrst : s.inputs.rst = false) :
    t.dec.bitIdx =
      if s.dec.st = 5#4 ∧ s.inputs.line = true then 0#6
      else if s.dec.st = 7#4 ∧ s.inputs.line = true ∧ s.dec.bitIdx ≠ 40#6 then s.dec.bitIdx + 1#6
      else s.dec.bitIdx := by
  by_cases hready : s.dec.st = 0#4
  · obtain ⟨u, hu, ht⟩ := step_ready_dec s t h hrst hready
    rw [ht, exec_ready_frame _ s u hu hready]
    simp [hready]
  · obtain ⟨f, hst, ht⟩ := step_busy_dec s t h hrst hready
    rw [ht]
    exact runFsm_bitIdx_cases f s.params s.dec s.inputs hst

/-! ## The diagnostic registers (10_state.md R29) -/

/-- The four diagnostic registers. -/
def Decoder.diagnostics (d : Decoder) : Half × Half × Byte × Byte := (d.rawHum, d.rawTemp, d.rawCk, d.calcCk)

/-- A bounded wait writes no diagnostic register where its success action writes none. -/
theorem wait_diagnostics (target : Bool) (ceil : Nat) (fail : ResultCode) (k : Nat → Decoder → Decoder)
    (s : Decoder) (inp : Inputs) (d : Decoder) (hk : ∀ c e, (k c e).diagnostics = e.diagnostics) :
    (wait target ceil fail k s inp d).diagnostics = d.diagnostics :=
  wait_keeps Decoder.diagnostics target ceil fail k s inp d hk rfl fun _ => rfl

/-- No rule but ASSEMBLE's writes a diagnostic register. -/
theorem runFsm_diagnostics (f : Fsm) (hf : f ≠ .assemble) (p : Params) (s d : Decoder) (inp : Inputs) :
    (runFsm f p s inp d).diagnostics = d.diagnostics := by
  cases f with
  | assemble => exact absurd rfl hf
  | ready => rfl
  | rateCheck => rcases rateCheck_cases s inp d with ⟨-, h⟩ | ⟨-, h⟩ <;> rw [runFsm, h] <;> rfl
  | startPulse => rw [runFsm, startPulse]; split <;> rfl
  | idleWait | ackLowWait | ackHighWait | bitSyncWait => exact wait_diagnostics _ _ _ _ _ _ _ fun _ _ => rfl
  | bitHighWait => exact wait_diagnostics _ _ _ _ _ _ _ fun c e => by unfold captureBit; split <;> rfl
  | checksumVerify => rcases checksumVerify_cases s d with ⟨-, h⟩ | ⟨-, h⟩ <;> rw [runFsm, h] <;> rfl

/-- A step outside ASSEMBLE leaves the diagnostic registers. -/
theorem step_keeps_diagnostics (s t : State) (h : step s = .next t) (hrst : s.inputs.rst = false)
    (hst : s.dec.st ≠ 8#4) : t.dec.diagnostics = s.dec.diagnostics := by
  by_cases hready : s.dec.st = 0#4
  · obtain ⟨u, hu, ht⟩ := step_ready_dec s t h hrst hready
    rw [ht, exec_ready_frame _ s u hu hready]
    rfl
  · obtain ⟨f, hf, ht⟩ := step_busy_dec s t h hrst hready
    rw [ht]
    exact runFsm_diagnostics f (by rintro rfl; exact hst hf) _ _ _ _

/-- Settles O41: the index by its two writers, the diagnostic registers by their one. -/
theorem slotIndexAndDiagnosticsHaveTheirWriters : Obligations.SlotIndexAndDiagnosticsHaveTheirWriters := by
  unfold Obligations.SlotIndexAndDiagnosticsHaveTheirWriters
  intro s t h hrst
  refine ⟨step_bitIdx s t h hrst, fun hst => ?_⟩
  simpa only [Decoder.diagnostics, Prod.mk.injEq] using step_keeps_diagnostics s t h hrst hst

end Sys2Proof.Machine

/-! The statements of 41_handshake.md that hold of several states at once: the hold of START_PULSE, and the five bounded
waits. -/

namespace Sys2Proof.Machine

/-! ## The hold (41_handshake.md R143) -/

/-- Settles O26: the step runs START_PULSE's rule, by whether the hold is over; the rule reads no line. -/
theorem startPulseHolds : Obligations.StartPulseHolds := by
  unfold Obligations.StartPulseHolds
  intro s hR
  rw [step_of_busy s .startPulse hR (by decide), runFsm, startPulse]
  refine ⟨fun hover => ?_, fun hholds => ?_⟩
  · rw [if_pos hover]; rfl
  · rw [if_neg (Nat.not_le_of_lt hholds)]

/-! ## The five bounded waits (41_handshake.md R140) -/

/-- An attempt never goes on to READY or to the state it is in. -/
theorem successor_ne (f g : Fsm) (hg : g ∈ successorsOf f) : fsmCode g ≠ fsmCode f ∧ fsmCode g ≠ 0#4 := by
  revert g
  cases f <;> decide

/-- The success action of a wait goes on to a successor of its state and polls nothing yet. -/
def MovesOn (f : Fsm) (act : Decoder → Nat → Decoder → Decoder) : Prop :=
  ∀ d c e, (act d c e).cnt = e.cnt ∧ ∃ g ∈ successorsOf f, (act d c e).st = fsmCode g

/-- The capture of a bit goes on, and polls nothing yet (42_bit_capture.md R162). -/
theorem captureBit_movesOn (p : Params) : MovesOn .bitHighWait (captureBit p) := fun d c e =>
  ⟨by unfold captureBit; split <;> rfl, captureBit_moves p d c e⟩

/-- Every row of the five waits is the bounded wait of an FSM state of a legal instance. -/
theorem waitRow_waits {p : Params} (hlegal : p.legal = true) {w : WaitRow} (hw : w ∈ waitRows p) :
    ∃ f fail act, Waits p f w.target w.ceil fail act ∧ MovesOn f act ∧ w.code = fsmCode f
      ∧ w.fail = resultCode fail ∧ 0 < w.ceil := by
  obtain ⟨hidle, -, hackLow, hackHigh, hsync, hdata⟩ := (legal_iff p).1 hlegal
  simp only [waitRows, List.mem_cons, List.not_mem_nil, or_false] at hw
  rcases hw with rfl | rfl | rfl | rfl | rfl
  · exact ⟨_, _, _, waits_idleWait p, fun _ _ _ => ⟨rfl, .startPulse, by decide, rfl⟩, rfl, rfl, hidle⟩
  · exact ⟨_, _, _, waits_ackLowWait p, fun _ _ _ => ⟨rfl, .ackHighWait, by decide, rfl⟩, rfl, rfl, hackLow⟩
  · exact ⟨_, _, _, waits_ackHighWait p, fun _ _ _ => ⟨rfl, .bitSyncWait, by decide, rfl⟩, rfl, rfl, hackHigh⟩
  · exact ⟨_, _, _, waits_bitSyncWait p, fun _ _ _ => ⟨rfl, .bitHighWait, by decide, rfl⟩, rfl, rfl, hsync⟩
  · exact ⟨_, _, _, waits_bitHighWait p, captureBit_movesOn p, rfl, rfl, hdata⟩

/-- A wait that has counted `m` polls is in its state with that count. -/
theorem State.Reaches.counted {s : State} {m : Nat} {d : Decoder} (h : s.Reaches (0 + m) { d with cnt := m }) :
    ∃ u, runSteps m s = .next u ∧ u.dec.st = d.st ∧ u.dec.cnt = m := by
  rw [Nat.zero_add] at h
  obtain ⟨u, e, hu, hd⟩ := h.run
  exact ⟨u, hu, by rw [hd], by rw [hd]⟩

/-- Settles O49: each row is the bounded wait of a state, which stays, succeeds and fails as `Waits` says. -/
theorem boundedWaitsSucceedOrFail : Obligations.BoundedWaitsSucceedOrFail := by
  unfold Obligations.BoundedWaitsSucceedOrFail
  intro s w hw hR hcnt
  obtain ⟨f, fail, act, hW, hmoves, hcode, hfail, hceil⟩ := waitRow_waits hR.legal hw
  have hst : s.dec.st = fsmCode f := hR.inState.trans hcode
  have hbegin := hR.reaches_zero
  rw [hcode, hfail]
  refine ⟨fun c hc hle hrst hline => ⟨?_, fun m hm => ?_⟩, fun hrst hline => ⟨?_, fun m hm => ?_⟩⟩
  · have hend := hW.succeeds hbegin hst hcnt ⟨hc, hle⟩ (by rwa [Nat.zero_add]) hline
    rw [Nat.zero_add] at hend
    obtain ⟨t, e, ht, hd⟩ := hend.run
    obtain ⟨hactCnt, g, hg, hactSt⟩ := hmoves { s.dec with cnt := c - 1 } c { s.dec with cnt := 0 }
    obtain ⟨hleaves, hgoes⟩ := successor_ne f g hg
    refine ⟨t, ht, ?_⟩
    rw [hd]
    exact ⟨hactCnt, by rwa [hactSt], by rwa [hactSt]⟩
  · have hstay := hW.stays_before hbegin hst hcnt hle hm (hrst.mono (by omega)) hline
    exact hst ▸ hstay.counted
  · have hend := hW.fails hbegin hst hcnt hceil (by rwa [Nat.zero_add]) hline
    rw [Nat.zero_add] at hend
    obtain ⟨t, e, ht, hd⟩ := hend.run
    refine ⟨t, ht, ?_⟩
    rw [hd]
    exact ⟨rfl, rfl, rfl, rfl⟩
  · have hothers := (lineIs_replicate s 0 _ _).1 hline
    have hstay := hW.stays hbegin hst hcnt hm (hrst.mono (by omega))
      ((lineIs_replicate s 0 _ _).2 fun i hi => hothers i (by omega))
    exact hst ▸ hstay.counted

end Sys2Proof.Machine

/-! The statements of 41_handshake.md section 2 about the clock and of 44_host_projections.md about the reading. -/

namespace Sys2Proof.Machine

/-- Settles O57: subtraction of words is subtraction modulo 2^32, which adds 2^32 where the clock has wrapped. -/
theorem elapsedTimeSurvivesAWrap : Obligations.ElapsedTimeSurvivesAWrap := by
  unfold Obligations.ElapsedTimeSurvivesAWrap
  intro now last
  have hnow : now.toNat < 2 ^ 32 := now.isLt
  rw [elapsedMs, BitVec.toNat_sub]
  split <;> omega

/-! ## The projections of READING (44_host_projections.md) -/

/-- The tenths are the fields of the reading (44_host_projections.md R201, R203). -/
theorem tenths_of_reading (d : Decoder) :
    humTenths (regRead d 2#3) = d.hum.toNat ∧ tempTenths (regRead d 2#3) = d.temp.toInt := by
  obtain ⟨hhum, htemp⟩ := halves_of_append d.temp d.hum
  exact ⟨congrArg BitVec.toNat hhum, congrArg BitVec.toInt htemp⟩

/-- A humidity without bit 15 is at most 32767. -/
theorem toNat_le_of_no_signFlag (f : Half) (h : f.getLsbD 15 = false) : f.toNat ≤ 32767 := by
  have hflag : ¬ 0x8000 ≤ f.toNat := by rw [← signFlag_iff, h]; decide
  omega

/-- A temperature other than 0x8000 is within -32767 to 32767. -/
theorem toInt_bounds_of_ne_min (f : Half) (h : f ≠ 0x8000#16) : -32767 ≤ f.toInt ∧ f.toInt ≤ 32767 := by
  have hne : f.toNat ≠ 0x8000 := fun he => h (BitVec.eq_of_toNat_eq he)
  have hlt : f.toNat < 0x10000 := f.isLt
  rw [BitVec.toInt_eq_toNat_cond]
  split <;> omega

/-- Settles O58: the fields sit at their bits, the invariant bounds them, and the rest is exact arithmetic. -/
theorem projectionsOfTheReading : Obligations.ProjectionsOfTheReading := by
  unfold Obligations.ProjectionsOfTheReading
  intro p d hI
  obtain ⟨hhum, htemp⟩ := tenths_of_reading d
  obtain ⟨hmin, hmax⟩ := toInt_bounds_of_ne_min d.temp hI.temp
  refine ⟨hhum, toNat_le_of_no_signFlag d.hum hI.hum, htemp, hmin, hmax, ?_, ?_, ?_⟩
  · rw [humPercent, hhum]; ring
  · rw [tempC, htemp]; ring
  · rw [tempF, tempC, htemp]; ring

end Sys2Proof.Machine

/-! The statements about whole attempts: every attempt ends within its bound (70_reset_and_hazards.md R264), a whole
read returns the reading that was sent, and an attempt right after reset passes its rate check (R252). -/

namespace Sys2Proof.Machine

/-! ## The steps an attempt has left (70_reset_and_hazards.md R264) -/

/-- The most steps that the capture of `n` slots and the two framing states take. -/
def captureBound (p : Params) (n : Nat) : Nat := n * (p.syncCeil + p.dataCeil) + 2

/-- The most steps an attempt has left in an FSM state: the polls or hold steps left to the state, then the ceilings of
the states after it. -/
def stepsLeftIn (p : Params) (d : Decoder) : Fsm → Nat
  | .ready => 0
  | .rateCheck => 1 + (p.idleCeil + (p.startHold + (p.ackLowCeil + (p.ackHighCeil + captureBound p 41))))
  | .idleWait => p.idleCeil - d.cnt + (p.startHold + (p.ackLowCeil + (p.ackHighCeil + captureBound p 41)))
  | .startPulse => p.startHold - d.cnt + (p.ackLowCeil + (p.ackHighCeil + captureBound p 41))
  | .ackLowWait => p.ackLowCeil - d.cnt + (p.ackHighCeil + captureBound p 41)
  | .ackHighWait => p.ackHighCeil - d.cnt + captureBound p 41
  | .bitSyncWait => p.syncCeil - d.cnt + (p.dataCeil + captureBound p (40 - d.bitIdx.toNat))
  | .bitHighWait => p.dataCeil - d.cnt + captureBound p (40 - d.bitIdx.toNat)
  | .assemble => 2
  | .checksumVerify => 1

/-- The most steps an attempt has left. -/
def stepsLeft (p : Params) (d : Decoder) : Nat :=
  match fsmOf d.st with
  | some f => stepsLeftIn p d f
  | none => 0

/-- The bound by the FSM state. -/
theorem stepsLeft_eq (p : Params) {d : Decoder} {f : Fsm} (hst : d.st = fsmCode f) :
    stepsLeft p d = stepsLeftIn p d f := by
  have hf : fsmOf d.st = some f := by rw [hst]; cases f <;> rfl
  simp only [stepsLeft, hf]

/-- An attempt that has ended has no steps left. -/
theorem stepsLeft_finish (p : Params) (c : ResultCode) (d : Decoder) : stepsLeft p (finish c d) = 0 := rfl

/-- An accepted attempt has the bound of R264 left. -/
theorem stepsLeft_of_accepted (p : Params) {d : Decoder} (hst : d.st = fsmCode .rateCheck) :
    stepsLeft p d = p.maxLatency := by
  rw [stepsLeft_eq p hst]
  simp only [stepsLeftIn, captureBound, Params.maxLatency, Config.nSlots]
  omega

/-- A slot takes at most its two ceilings. -/
theorem captureBound_succ (p : Params) (n : Nat) :
    captureBound p (n + 1) = p.syncCeil + (p.dataCeil + captureBound p n) := by
  simp only [captureBound, Nat.succ_mul]
  omega

section
variable {p : Params} {d : Decoder}

/-- A bounded wait uses up a step: its polls are counted, and its success action leads to no more than the rest. -/
theorem Waits.stepsLeft_lt {f : Fsm} {target : Bool} {ceil : Nat} {fail : ResultCode}
    {act : Decoder → Nat → Decoder → Decoder} (hW : Waits p f target ceil fail act) (hst : d.st = fsmCode f)
    (inp : Inputs) {rest : Nat} (hcnt : d.cnt < ceil)
    (hleft : ∀ n, stepsLeftIn p { d with cnt := n } f = ceil - n + rest)
    (hact : ∀ c, stepsLeft p (act d c { d with cnt := 0 }) ≤ rest) :
    stepsLeft p (runFsm f p d inp d) < stepsLeft p d := by
  have hnow : stepsLeft p d = ceil - d.cnt + rest := (stepsLeft_eq p hst).trans (hleft d.cnt)
  rw [hW.rule, hnow]
  rcases wait_cases target ceil fail (act d) d inp d with ⟨-, h⟩ | ⟨-, -, h⟩ | ⟨-, -, h⟩ <;> rw [h]
  · have hrest := hact (d.cnt + 1)
    omega
  · rw [stepsLeft_finish]
    omega
  · rw [stepsLeft_eq p (show ({ d with cnt := d.cnt + 1 } : Decoder).st = fsmCode f from hst), hleft]
    omega

/-- The capture of a bit leads to the next slot, or to the two framing states. -/
theorem stepsLeft_captureBit_le (hidx : d.bitIdx.toNat ≤ 40) (c : Nat) :
    stepsLeft p (captureBit p d c { d with cnt := 0 }) ≤ captureBound p (40 - d.bitIdx.toNat) := by
  by_cases hlast : d.bitIdx = 40#6
  · rw [captureBit_of_last _ _ _ _ hlast]
    exact Nat.le_add_left 2 _
  · have hleft : 40 - d.bitIdx.toNat = 40 - (d.bitIdx + 1#6).toNat + 1 := by bv_omega
    rw [captureBit_of_not_last _ _ _ _ hlast, hleft, captureBound_succ]
    exact le_rfl

/-- The rule of every busy state uses up a step. -/
theorem Decoder.Inv.stepsLeft_lt (h : Decoder.Inv p d) {f : Fsm} (hst : d.st = fsmCode f) (hf : f ≠ .ready)
    (inp : Inputs) : stepsLeft p (Machine.runFsm f p d inp d) < stepsLeft p d := by
  have hcnt : d.cnt < cntBound p (fsmCode f) := hst ▸ h.cnt
  cases f with
  | ready => exact absurd rfl hf
  | rateCheck =>
    rw [stepsLeft_eq p hst]
    rcases rateCheck_cases d inp d with ⟨-, he⟩ | ⟨-, he⟩ <;> rw [Machine.runFsm, he]
    · exact Nat.lt_of_lt_of_le Nat.one_pos (Nat.le_add_right 1 _)
    · exact Nat.lt_one_add_iff.2 le_rfl
  | idleWait => exact (waits_idleWait p).stepsLeft_lt hst inp hcnt (fun _ => rfl) fun _ => le_rfl
  | startPulse =>
    rw [stepsLeft_eq p hst, Machine.runFsm, startPulse]
    split
    · have hhold : d.cnt < p.startHold := hcnt
      change p.ackLowCeil - 0 + _ < p.startHold - d.cnt + _
      omega
    · have hstays : ({ d with cnt := d.cnt + 1 } : Decoder).st = fsmCode .startPulse := hst
      rw [stepsLeft_eq p hstays]
      change p.startHold - (d.cnt + 1) + _ < p.startHold - d.cnt + _
      omega
  | ackLowWait => exact (waits_ackLowWait p).stepsLeft_lt hst inp hcnt (fun _ => rfl) fun _ => le_rfl
  | ackHighWait =>
    refine (waits_ackHighWait p).stepsLeft_lt hst inp hcnt (fun _ => rfl) fun _ => ?_
    rw [captureBound_succ]
    exact le_rfl
  | bitSyncWait => exact (waits_bitSyncWait p).stepsLeft_lt hst inp hcnt (fun _ => rfl) fun _ => le_rfl
  | bitHighWait =>
    exact (waits_bitHighWait p).stepsLeft_lt hst inp hcnt (fun _ => rfl) (stepsLeft_captureBit_le h.bitIdx)
  | assemble =>
    rw [stepsLeft_eq p hst]
    exact Nat.lt_succ_self 1
  | checksumVerify =>
    rw [stepsLeft_eq p hst]
    rcases checksumVerify_cases d d with ⟨-, he⟩ | ⟨-, he⟩ <;> rw [Machine.runFsm, he] <;> exact Nat.one_pos

end

/-! ## Every attempt ends (70_reset_and_hazards.md R264, 40_command_interface.md R120) -/

/-- An attempt has ended, with an outcome. -/
def State.Ended (t : State) : Prop :=
  t.dec.st = 0#4 ∧ t.dec.done = true ∧ 1 ≤ t.dec.result.toNat ∧ t.dec.result.toNat ≤ 8

/-- A step that leaves a busy state for READY ends the attempt with an outcome. -/
theorem ended_of_step {s t : State} (hI : t.Inv) (h : step s = .next t) (hrst : s.inputs.rst = false)
    (hbusy : s.dec.st ≠ 0#4) (hend : t.dec.st = 0#4) : t.Ended := by
  obtain ⟨hframe, -⟩ := finishWritesFourFields s t h hrst hbusy hend
  have hdone : t.dec.done = true := by rw [hframe]
  have hres : t.dec.result ≠ 0#4 := hI.dec.outcome hdone
  exact ⟨hend, hdone, by bv_omega, hI.dec.result⟩

/-- A busy step without reset of a state of the invariant: the next state has the invariant and fewer steps left. -/
theorem State.Inv.busy_step {s : State} (hI : s.Inv) (hrst : s.inputs.rst = false) (hbusy : s.dec.st ≠ 0#4) :
    ∃ t, step s = .next t ∧ t.Inv ∧ stepsLeft t.params t.dec < stepsLeft s.params s.dec := by
  obtain ⟨t, ht⟩ := step_next_of_codes s hI.legal (.inr ⟨hI.dec.fsm, hI.dec.result⟩)
  obtain ⟨f, hst, hd⟩ := step_busy_dec s t ht hrst hbusy
  have hf : f ≠ .ready := by rwa [hst, Ne, fsmCode_ready_iff] at hbusy
  refine ⟨t, ht, everyStepKeepsTheInvariant s t hI ht, ?_⟩
  rw [hd, (step_environment s t ht).1]
  exact hI.dec.stepsLeft_lt hst hf s.inputs

/-- A busy state has a step left. -/
theorem State.Inv.stepsLeft_pos {s : State} (hI : s.Inv) (hbusy : s.dec.st ≠ 0#4) :
    0 < stepsLeft s.params s.dec := by
  obtain ⟨f, hfsm⟩ := Option.isSome_iff_exists.1 (fsmOf_isSome s.dec.st hI.dec.fsm)
  have hst : s.dec.st = fsmCode f := fsmOf_eq_some _ _ hfsm
  have hf : f ≠ .ready := by rwa [hst, Ne, fsmCode_ready_iff] at hbusy
  exact Nat.zero_lt_of_lt (hI.dec.stepsLeft_lt hst hf s.inputs)

/-- No reset in a run, none in the run from its second step on. -/
theorem NoReset.next {s t : State} {n : Nat} (hrst : NoReset s (n + 1)) (h : step s = .next t) : NoReset t n :=
  fun j hj => by
    rw [(step_environment s t h).2 j]
    exact hrst (j + 1) (by omega)

/-- A busy state with at most `n` steps left ends its attempt within `n` steps, and is busy until then. -/
theorem State.Inv.ends_within (n : Nat) {s : State} (hI : s.Inv) (hbusy : s.dec.st ≠ 0#4)
    (hleft : stepsLeft s.params s.dec ≤ n) (hrst : NoReset s n) :
    ∃ f, 1 ≤ f ∧ f ≤ n ∧ (∃ t, runSteps f s = .next t ∧ t.Ended)
      ∧ ∀ m, m < f → ∃ u, runSteps m s = .next u ∧ u.dec.st ≠ 0#4 ∧ u.dec.done = false := by
  induction n generalizing s with
  | zero =>
    have hpos := hI.stepsLeft_pos hbusy
    omega
  | succ n ih =>
    have hrst0 : s.inputs.rst = false := hrst 0 n.succ_pos
    obtain ⟨t, ht, hIt, hless⟩ := hI.busy_step hrst0 hbusy
    by_cases hend : t.dec.st = 0#4
    · refine ⟨1, le_rfl, by omega, ⟨t, runSteps_succ_of_next s t 0 ht, ended_of_step hIt ht hrst0 hbusy hend⟩,
        fun m hm => ?_⟩
      obtain rfl : m = 0 := by omega
      exact ⟨s, rfl, hbusy, hI.dec.busy hbusy⟩
    · obtain ⟨f, hone, hle, ⟨v, hv, hended⟩, hmid⟩ := ih hIt hend (by omega) (hrst.next ht)
      refine ⟨f + 1, by omega, by omega, ⟨v, (runSteps_succ_of_next s t f ht).trans hv, hended⟩, fun m hm => ?_⟩
      cases m with
      | zero => exact ⟨s, rfl, hbusy, hI.dec.busy hbusy⟩
      | succ m =>
        obtain ⟨u, hu, hmidway⟩ := hmid m (by omega)
        exact ⟨u, (runSteps_succ_of_next s t m ht).trans hu, hmidway⟩

/-- Settles O54: the accepted attempt is busy with the bound of R264 left. -/
theorem everyAttemptEndsWithinTheBound : Obligations.EveryAttemptEndsWithinTheBound := by
  unfold Obligations.EveryAttemptEndsWithinTheBound
  intro s hI hready hstarts hrst
  have hR : s.Runs 0#4 := ⟨hI.legal, hrst 0 (Nat.succ_pos _), hready, hI.dec.result⟩
  obtain ⟨-, haccept, -⟩ := readyDoesNothingOfItsOwn s hR
  have hstep := haccept hstarts
  have hbusy : (1#4 : BitVec 4) ≠ 0#4 := by decide
  obtain ⟨f, hone, hle, ⟨t, ht, hended⟩, hmid⟩ := (everyStepKeepsTheInvariant s _ hI hstep).ends_within
    s.params.maxLatency hbusy (stepsLeft_of_accepted s.params rfl).le (hrst.next hstep)
  refine ⟨f, hone, hle, ⟨t, (runSteps_succ_of_next s _ f hstep).trans ht, hended⟩, fun m hpos hm => ?_⟩
  obtain ⟨m, rfl⟩ := Nat.exists_eq_add_of_le' hpos
  obtain ⟨u, hu, hmidway⟩ := hmid m (by omega)
  exact ⟨u, (runSteps_succ_of_next s _ m hstep).trans hu, hmidway⟩

/-! ## A whole read -/

/-- The decoder of an attempt accepted in `s` at the beginning of its capture; `cmd_err` is of no account. -/
def State.capturing (s : State) : Decoder := (s.handshaking .bitSyncWait 0).atSlot 0 0#41

/-- The decoder of that attempt in ASSEMBLE with the frame `f`. -/
def State.captured (s : State) (f : Frame) : Decoder := goto .assemble (s.capturing.atSlot 40 f)

/-- A frame captured from slots whose samples stand for the bits of a frame is that frame (42_bit_capture.md R163). -/
theorem framed_eq (p : Params) (f g : Frame) (slots : List (Nat × Nat)) (hlen : slots.length = 41)
    (hbits : ∀ i, i < 41 → decide (p.bitThreshold < (slots.getD i (0, 0)).2) = g.getLsbD (40 - i)) :
    framed p f slots = g := by
  apply BitVec.eq_of_getLsbD_eq
  intro n hn
  rw [framed_getLsbD p f slots hlen.le (40 - n) n (by omega)]
  have hbit := hbits (40 - n) (by omega)
  rwa [show 40 - (40 - n) = n by omega] at hbit

/-- A whole read ends with the decode of the frame its slots stand for. -/
theorem AttemptPasses.reaches_decoded {s : State} (hA : AttemptPasses s) (hI : s.Inv) {h : Polls}
    (hfit : PollsFit s.params h) (hanswers : LineAnswers s h) {slots : List (Nat × Nat)} (hlen : slots.length = 41)
    (hslots : SlotsFit s.params slots) (hline : LineIs s (handshakeSteps s.params h) (slots.flatMap slotLevels))
    (hrst : NoReset s (handshakeSteps s.params h + slotSteps slots + 2)) :
    s.Reaches (handshakeSteps s.params h + slotSteps slots + 2)
      (s.captured (framed s.params 0#41 slots)).decoded := by
  have hbegin : s.Reaches (handshakeSteps s.params h) (s.capturing.atSlot 0 0#41) :=
    hA.reaches_bitSyncWait hI hfit hanswers (hrst.mono (by omega))
  exact (hbegin.captureFrame slots hlen hslots (hrst.mono (by omega)) hline).decoded rfl hrst

/-- Settles O55: the handshake and the capture lead to the sent frame, which decodes to the sent reading. -/
theorem wholeReadDecodesTheSentReading : Obligations.WholeReadDecodesTheSentReading := by
  unfold Obligations.WholeReadDecodesTheSentReading
  intro s h slots b0 hum temp hI hA hfit hanswers hlen hslots hline hrst hhum hmin hmax hbits
  have hdecode : decodeFrame (s.captured (encodeFrame b0 hum temp)).frame
      = some (BitVec.ofNat 16 hum, BitVec.ofInt 16 temp) := readingSurvivesTheWire b0 hum temp hhum hmin hmax
  have hend := hA.reaches_decoded hI hfit hanswers hlen hslots hline hrst
  rw [framed_eq s.params 0#41 _ slots hlen hbits, Decoder.decoded_of_some _ _ _ hdecode] at hend
  obtain ⟨t, e, ht, hd⟩ := hend.run
  obtain ⟨htenths, htempTenths⟩ := tenths_of_reading t.dec
  refine ⟨t, ht, ?_⟩
  rw [htenths, htempTenths, hd]
  have hhumBack : (BitVec.ofNat 16 hum).toNat = hum := by rw [BitVec.toNat_ofNat, Nat.mod_eq_of_lt (by omega)]
  have htempBack : (BitVec.ofInt 16 temp).toInt = temp :=
    BitVec.toInt_ofInt_eq_self (by decide) (by omega) (by omega)
  exact ⟨rfl, rfl, rfl, rfl, hhumBack, htempBack, rfl⟩

/-! ## The first attempt after reset (70_reset_and_hazards.md R252) -/

/-- Settles O56: RESET_STATE has no timestamp, so the attempt accepted in it passes and enters IDLE_WAIT. -/
theorem firstAttemptAfterResetPasses : Obligations.FirstAttemptAfterResetPasses := by
  unfold Obligations.FirstAttemptAfterResetPasses
  intro s hlegal hrst hrst1 hrst2 ⟨ign, hattempt⟩
  have hstep := step_of_reset s hlegal hrst
  obtain ⟨-, hpresented⟩ := step_environment s _ hstep
  have hI : s.resetStep.Inv := ⟨hlegal, inv_resetState hlegal⟩
  have hA : AttemptPasses s.resetStep := by
    refine ⟨rfl, (startsAttempt_iff _).2 ⟨ign, ?_⟩, fun hlimited => Bool.false_ne_true hlimited.1⟩
    rw [← hattempt, ← hpresented 0]
    rfl
  have hnoReset : NoReset s.resetStep 2 := fun j hj => by
    obtain rfl | rfl : j = 0 ∨ j = 1 := by omega
    · rw [hpresented, hrst1]
    · rw [hpresented, hrst2]
  obtain ⟨t, e, ht, hd⟩ := (hA.reaches_idleWait hI hnoReset).run
  refine ⟨t, (runSteps_succ_of_next s _ 2 hstep).trans ht, ?_⟩
  rw [hd, State.handshaking, hpresented]
  exact ⟨rfl, rfl, rfl⟩

end Sys2Proof.Machine

/-! The statement of 30_encoding.md section 4: what each line of a host program presents. -/

namespace Sys2Proof.Machine

/-- The fields of the words of `WR` and `RD` (30_encoding.md R81, R86). -/
theorem host_word_fields (r : HostReg) (v : Word) :
    ((wrWord r v).getLsbD 35 = true ∧ (wrWord r v).extractLsb' 32 3 = hostRegIdx r
        ∧ (wrWord r v).extractLsb' 0 32 = v)
      ∧ (rdWord r).getLsbD 35 = false ∧ (rdWord r).extractLsb' 32 3 = hostRegIdx r := by
  obtain ⟨hstrobe, haddr, -⟩ := access_fields 0#1 (hostRegIdx r) 0#32
  exact ⟨access_fields 1#1 (hostRegIdx r) v, hstrobe, haddr⟩

/-! ## Presenting words -/

/-- The machine whose coming step has the bench's inputs for the word `w`. -/
def Bench.presenting (b : Bench) (w : TxWord) : State :=
  { b.machine with script := b.inputs w :: b.machine.script.tail }

/-- Presenting a word answers where the step does: the value on the read port and the bench with the next state. -/
theorem Bench.present_eq_some {b b' : Bench} {w : TxWord} {v : Word} (h : b.present w = some (v, b')) :
    step (b.presenting w) = .next b'.machine ∧ v = b'.machine.seen.regRdata ∧ b'.nowMs = b.nowMs := by
  unfold Bench.present at h
  split at h
  next t ht =>
    cases h
    exact ⟨ht, rfl, rfl⟩
  next => cases h
  next => cases h

/-- The value read is `RegRead` of the word's index in the state before the step (40_command_interface.md R119). -/
theorem Bench.present_reads {b b' : Bench} {w : TxWord} {v : Word} (h : b.present w = some (v, b')) :
    v = regRead b.machine.dec (w.extractLsb' 32 3) := by
  obtain ⟨hstep, hv, -⟩ := Bench.present_eq_some h
  obtain ⟨-, -, -, hport, -⟩ := outputsAreMooreOutputs _ _ hstep
  exact hv.trans hport

/-- Presenting one word more begins with presenting it. -/
theorem Bench.presentMany_succ (b : Bench) (w : TxWord) (n : Nat) :
    b.presentMany w (n + 1) = (b.present w).bind fun r => r.2.presentMany w n := by
  rw [Bench.presentMany]
  cases b.present w <;> rfl

/-! ## The lines -/

/-- One more repetition of `WAIT_DONE` reads STATUS, and ends where the value has DONE set. -/
theorem Bench.waitDone_succ (b : Bench) (fuel : Nat) :
    b.waitDone (fuel + 1) = (b.present (rdWord .status)).bind fun r =>
      if r.1.getLsbD 1 = true then some ([r.1], r.2)
      else (r.2.waitDone fuel).map fun q => (r.1 :: q.1, q.2) := by
  rw [Bench.waitDone]
  cases b.present (rdWord .status) with
  | none => rfl
  | some r =>
    obtain ⟨v, b'⟩ := r
    simp only [Option.bind_some]
    split
    · rfl
    · cases b'.waitDone fuel <;> rfl

/-- `READ_SENSOR` is its two lines. -/
theorem Bench.runLine_readSensor (fuel : Nat) (b : Bench) :
    b.runLine fuel .readSensor = b.run fuel [.attemptRead, .waitDone] := by
  simp only [Bench.runLine, Bench.run]
  cases b.present (wrWord .ctrl 1#32) with
  | none => rfl
  | some r =>
    obtain ⟨v, b'⟩ := r
    simp only [Option.map_some]
    cases b'.waitDone fuel with
    | none => rfl
    | some q => simp only [Option.map_some, List.append_nil, List.singleton_append]

/-- `WAIT_DONE` presents `RD STATUS` once for each value it reads, and only the last value has DONE set. -/
theorem Bench.waitDone_values (fuel : Nat) {b b' : Bench} {vs : List Word} (h : b.waitDone fuel = some (vs, b')) :
    b.presentMany (rdWord .status) vs.length = some b'
      ∧ ∃ early last, vs = early ++ [last] ∧ last.getLsbD 1 = true ∧ ∀ v, v ∈ early → v.getLsbD 1 = false := by
  induction fuel generalizing b vs with
  | zero => cases h
  | succ fuel ih =>
    rw [Bench.waitDone_succ, Option.bind_eq_some_iff] at h
    obtain ⟨⟨v, b₁⟩, hpresent, h⟩ := h
    split at h
    next hdone =>
      cases h
      refine ⟨?_, [], v, rfl, hdone, nofun⟩
      rw [List.length_singleton, Bench.presentMany_succ, hpresent]
      rfl
    next hdone =>
      rw [Option.map_eq_some_iff] at h
      obtain ⟨⟨us, b₂⟩, hrest, h⟩ := h
      cases h
      obtain ⟨hmany, early, last, rfl, hlast, hearly⟩ := ih hrest
      refine ⟨?_, v :: early, last, rfl, hlast, ?_⟩
      · rw [List.length_cons, Bench.presentMany_succ, hpresent]
        exact hmany
      · rw [List.forall_mem_cons]
        exact ⟨by simpa using hdone, hearly⟩

/-- Settles O59: the words by their fields, the presenting of a word by its step, and each line by its meaning, which
is the statement's but for `READ_SENSOR` and `WAIT_DONE`. -/
theorem hostProgramLinesPresentTheirWords : Obligations.HostProgramLinesPresentTheirWords := by
  unfold Obligations.HostProgramLinesPresentTheirWords
  refine ⟨host_word_fields, fun b b' w v h => ?_, fun fuel b => ?_, fun b b' w n h => ?_,
    fun fuel b b' vs h => Bench.waitDone_values fuel h⟩
  · obtain ⟨hstep, -, hnow⟩ := Bench.present_eq_some h
    exact ⟨⟨withTw_tw _ w, rfl, rfl⟩, hstep, Bench.present_reads h, hnow⟩
  · exact ⟨fun _ _ => rfl, fun _ => rfl, rfl, rfl, rfl, fun _ => rfl, Bench.runLine_readSensor fuel b, fun _ => rfl,
      fun _ => rfl⟩
  · rw [Bench.presentMany_succ, Option.bind_eq_some_iff] at h
    obtain ⟨⟨v, b₁⟩, hpresent, hmany⟩ := h
    exact ⟨v, b₁, hpresent, hmany⟩

end Sys2Proof.Machine
